-- ==== Sys2Proof/Word.lean ====
section
/-! DEFINITION. The widths of the spec's values (R8, R9, R22): every value of the block is an unsigned integer of a
stated width (R11), a bit vector numbered from 0 at its least significant bit (R10). -/

namespace Sys2Proof

/-- A 1-bit line or field. -/
abbrev Bit := BitVec 1

/-- `CHANNEL_W` and `TAG_W`: a 4-bit field (R8, R9). -/
abbrev Nibble := BitVec 4

/-- `BYTE_W`: an input byte or a data field (R8). -/
abbrev Byte := BitVec 8

/-- The packed input word `IN` (R44). -/
abbrev InWord := BitVec 26

/-- `MSG_W`: the packed output word (R9, R48). -/
abbrev OutWord := BitVec 24

end Sys2Proof
end

