-- ==== Sys2Proof/Syntax.lean ====
section
/-! DEFINITION. The values the block works on and its operations: the 14 categories (R70), the Message union (R23), the
input lines (R22, R28, R55), what a producer can ask for, and `Instr`, one constructor per row of
spec/opcode_table.json. -/

namespace Sys2Proof

/-- The 14 message categories of the classification table (R70). -/
inductive Category where
  | noteOff | noteOn | polyphonicAftertouch | controlChange | programChange | channelAftertouch | pitchBend
  | tuneRequest | timingClock | start | stop | midiContinue | activeSensing | systemReset
  deriving DecidableEq, Repr

/-- The closed Message union with the field widths of R23; the system variants have no channel at all (R24). -/
inductive Message where
  | noteOff (channel : Nibble) (noteNumber velocity : Byte)
  | noteOn (channel : Nibble) (noteNumber velocity : Byte)
  | polyphonicAftertouch (channel : Nibble) (noteNumber pressure : Byte)
  | controlChange (channel : Nibble) (control : BitVec 7) (controlValue : Byte)
  | programChange (channel : Nibble) (program : Byte)
  | channelAftertouch (channel : Nibble) (pressureValue : Byte)
  | pitchBend (channel : Nibble) (lsb msb : Byte)
  | tuneRequest | timingClock | start | stop | midiContinue | activeSensing | systemReset
  deriving DecidableEq, Repr

/-- The decode input lines `in_len`, `in_b0`, `in_b1`, `in_b2` (R22, R28). -/
structure InLines where
  len : BitVec 2
  b0 : Byte
  b1 : Byte
  b2 : Byte
  deriving DecidableEq, Repr

/-- The restricted-byte input lines `rb_w`, `rb_op`, `rb_a`, `rb_b` (R22, R55). -/
structure RbLines where
  w : Bit
  op : BitVec 2
  a : Byte
  b : Byte
  deriving DecidableEq, Repr

/-- Which operation a presentation asks for. `select` and `equality` put the same values on the same lines: RB.EQ is
driven in parallel with every select (R53, R64), and the request says which of the two operations is meant
(log entry 5). -/
inductive Request where
  | decode (g : InLines)
  | select (r : RbLines)
  | equality (r : RbLines)
  deriving DecidableEq, Repr

/-- Which unit's operation the lines carry (log entry 2). -/
inductive Port where
  | decode | rbSelect | rbEquality
  deriving DecidableEq, Repr

/-- One presentation by the producer (R16): what is asked for, and whether the lines are held stable for the whole
operation (R112). -/
structure Presentation where
  request : Request
  stable : Bool
  deriving DecidableEq, Repr

/-- The operations, one constructor per row of spec/opcode_table.json, with the operands its `source_fields` name.
`l` is `IN[24]`, the low bit of `in_len` where the row fixes the high bit to 1; `p` is `IN[15:8]`, `q` is `IN[7:0]`. -/
inductive Instr where
  | noteOff (l : Bit) (c : Nibble) (p q : Byte)
  | noteOn (l : Bit) (c : Nibble) (p q : Byte)
  | polyAftertouch (l : Bit) (c : Nibble) (p q : Byte)
  | controlChange (l : Bit) (c : Nibble) (p q : Byte)
  | programChange (l : Bit) (c : Nibble) (p q : Byte)
  | channelAftertouch (l : Bit) (c : Nibble) (p q : Byte)
  | pitchBend (l : Bit) (c : Nibble) (p q : Byte)
  | tuneRequest (l : Bit) (p q : Byte)
  | timingClock (l : Bit) (p q : Byte)
  | start (l : Bit) (p q : Byte)
  | midiContinue (l : Bit) (p q : Byte)
  | stop (l : Bit) (p q : Byte)
  | activeSensing (l : Bit) (p q : Byte)
  | systemReset (l : Bit) (p q : Byte)
  /-- The default row: every `IN` no other row matches; `len` is all of `IN[25:24]`, `st` is `IN[23:16]`. -/
  | fail (len : BitVec 2) (st p q : Byte)
  | rbMake7 (a b : Byte)
  | rbAnd7 (a b : Byte)
  | rbOr7 (a b : Byte)
  | rbXor7 (a b : Byte)
  | rbMake3 (a b : Byte)
  | rbAnd3 (a b : Byte)
  | rbOr3 (a b : Byte)
  | rbXor3 (a b : Byte)
  /-- `op` is the select's `rb_op`, any value (R64). -/
  | rbEq7 (op : BitVec 2) (a b : Byte)
  /-- `op` is the select's `rb_op`, any value (R65). -/
  | rbEq3 (op : BitVec 2) (a b : Byte)
  deriving DecidableEq, Repr

end Sys2Proof
end

