-- ==== Sys2Proof/Machine/Classify.lean ====
section
/-! DEFINITION. The message-type classifier (41_classify.md): a pure lookup of the status byte, total, with no state
and no effect (R72). -/

namespace Sys2Proof.Machine

/-- The two fields of the status byte (R42): `T`, bits 7:4. -/
def statusNibble (b : Byte) : Nibble := b.extractLsb' 4 4

/-- The two fields of the status byte (R42): `C`, bits 3:0, the channel of a channel-voice category. -/
def channelOf (b : Byte) : Nibble := b.extractLsb' 0 4

/-- CLASSIFY for a status byte with top nibble 0xF: the whole byte selects (R71). -/
def classifySystem (b : Byte) : Option Category :=
  if b = 0xF6#8 then some .tuneRequest
  else if b = 0xF8#8 then some .timingClock
  else if b = 0xFA#8 then some .start
  else if b = 0xFB#8 then some .midiContinue
  else if b = 0xFC#8 then some .stop
  else if b = 0xFE#8 then some .activeSensing
  else if b = 0xFF#8 then some .systemReset
  else none

/-- CLASSIFY (R70, R71). `none` is `Unrecognized`, a result and not a fault (R74). -/
def classify (b : Byte) : Option Category :=
  let t := statusNibble b
  if t = 0x8#4 then some .noteOff
  else if t = 0x9#4 then some .noteOn
  else if t = 0xA#4 then some .polyphonicAftertouch
  else if t = 0xB#4 then some .controlChange
  else if t = 0xC#4 then some .programChange
  else if t = 0xD#4 then some .channelAftertouch
  else if t = 0xE#4 then some .pitchBend
  else if t = 0xF#4 then classifySystem b
  else none

/-- IS_CHANNEL_VOICE (R73). -/
def isChannelVoice : Category → Bool
  | .noteOff | .noteOn | .polyphonicAftertouch | .controlChange | .programChange | .channelAftertouch | .pitchBend => true
  | .tuneRequest | .timingClock | .start | .stop | .midiContinue | .activeSensing | .systemReset => false

end Sys2Proof.Machine
end

