-- ==== Sys2Proof/Machine/Operands.lean ====
section
/-! DEFINITION. Operand assembly of the decoder (R45) and the values of the restricted-byte unit (R25, R55 to R63). -/

namespace Sys2Proof.Machine

/-- `zext_8` of the 7-bit control field (R11). -/
def zext8 (k : BitVec 7) : Byte := k.setWidth 8

/-- `data2` from the lines: byte 2 when three bytes are present, else 0 (R45). -/
def data2OfLen (len : BitVec 2) (b2 : Byte) : Byte := if len = 3#2 then b2 else 0x00#8

/-- `data2` of a recognized group, whose `in_len` is 2 or 3 and has the low bit `l` (R45). -/
def data2 (l : Bit) (q : Byte) : Byte := data2OfLen (1#1 ++ l) q

/-- `N`, the restricted width `rb_w` selects (R55). -/
def rbWidth (w : Bit) : Nat := if w = 0#1 then 7 else 3

/-- `M = 2^N - 1`, the mask of the restricted width (R55). -/
def rbMask (w : Bit) : Byte := if w = 0#1 then 0x7F#8 else 0x07#8

/-- MAKE: truncation to N bits, zero-extended to 8; it drops the high bits and does not saturate (R56, R57, C1). -/
def rbMake (w : Bit) (a : Byte) : Byte := a &&& rbMask w

/-- AND of two restricted values, truncated afresh (R58, R61). -/
def rbAnd (w : Bit) (a b : Byte) : Byte := (a &&& b) &&& rbMask w

/-- OR of two restricted values, truncated afresh (R59, R62). -/
def rbOr (w : Bit) (a b : Byte) : Byte := (a ||| b) &&& rbMask w

/-- XOR of two restricted values, truncated afresh (R60, R63). -/
def rbXor (w : Bit) (a b : Byte) : Byte := (a ^^^ b) &&& rbMask w

/-- `rb_y` as a function of the RB input lines (R53, R55). -/
def rbResult (r : RbLines) : Byte :=
  if r.op = 0b00#2 then rbMake r.w r.a
  else if r.op = 0b01#2 then rbAnd r.w r.a r.b
  else if r.op = 0b10#2 then rbOr r.w r.a r.b
  else rbXor r.w r.a r.b

/-- The value domain RestrictedByte(N): no bit at or above N (R25). -/
def inRestrictedDomain (w : Bit) (v : Byte) : Bool := v &&& ~~~(rbMask w) == 0#8

/-- The `value` accessor: no operation, the restricted value itself (R66). -/
def rbValue (y : Byte) : Byte := y

/-- Assigning a raw byte to a restricted value truncates again: MAKE (R66). -/
def rbAssign (w : Bit) (v : Byte) : Byte := rbMake w v

/-- `control`: RB.MAKE7 of data1, as a 7-bit field (R45, R69, R79). -/
def controlOf (data1 : Byte) : BitVec 7 := (rbMake 0#1 data1).setWidth 7

end Sys2Proof.Machine
end

