-- ==== Sys2Proof/Machine/MessageEncoder.lean ====
section
/-! DEFINITION. The tagged message encoder PACK (R94), its model-side inverse UNPACK (R95), the named constant
ALL_NOTES_OFF (R97) and the test-harness serializer SER (95_test_vectors.md section 7.3; no port of the block, R98). -/

namespace Sys2Proof.Machine

/-- The 4-bit variant codes (R49). -/
def tagOf : Category → Nibble
  | .noteOff => 0x1#4
  | .noteOn => 0x2#4
  | .polyphonicAftertouch => 0x3#4
  | .controlChange => 0x4#4
  | .programChange => 0x5#4
  | .channelAftertouch => 0x6#4
  | .pitchBend => 0x7#4
  | .tuneRequest => 0x8#4
  | .timingClock => 0x9#4
  | .start => 0xA#4
  | .stop => 0xB#4
  | .midiContinue => 0xC#4
  | .activeSensing => 0xD#4
  | .systemReset => 0xE#4

/-- The output word of its four fields, `TAG` most significant (R48). -/
def wordOf (tag ch : Nibble) (f1 f2 : Byte) : OutWord := tag ++ ch ++ f1 ++ f2

/-- PACK of a message (R94): every bit no field occupies is 0 (R50). -/
def packMessage : Message → OutWord
  | .noteOff c n v => wordOf (tagOf .noteOff) c n v
  | .noteOn c n v => wordOf (tagOf .noteOn) c n v
  | .polyphonicAftertouch c n p => wordOf (tagOf .polyphonicAftertouch) c n p
  | .controlChange c k v => wordOf (tagOf .controlChange) c (zext8 k) v
  | .programChange c p => wordOf (tagOf .programChange) c p 0x00#8
  | .channelAftertouch c p => wordOf (tagOf .channelAftertouch) c p 0x00#8
  | .pitchBend c l h => wordOf (tagOf .pitchBend) c l h
  | .tuneRequest => wordOf (tagOf .tuneRequest) 0x0#4 0x00#8 0x00#8
  | .timingClock => wordOf (tagOf .timingClock) 0x0#4 0x00#8 0x00#8
  | .start => wordOf (tagOf .start) 0x0#4 0x00#8 0x00#8
  | .stop => wordOf (tagOf .stop) 0x0#4 0x00#8 0x00#8
  | .midiContinue => wordOf (tagOf .midiContinue) 0x0#4 0x00#8 0x00#8
  | .activeSensing => wordOf (tagOf .activeSensing) 0x0#4 0x00#8 0x00#8
  | .systemReset => wordOf (tagOf .systemReset) 0x0#4 0x00#8 0x00#8

/-- PACK (R94); `None` is the word 0x000000. -/
def pack : Option Message → OutWord
  | none => 0x000000#24
  | some m => packMessage m

/-- Why UNPACK refuses a word: the block never drives it (R52). -/
inductive UnpackRefusal where
  /-- Tag 0xF. Safe. -/
  | reservedTag
  /-- Tag 0 with a nonzero bit in 19:0. Safe. -/
  | noneWithBits
  /-- A system tag with a nonzero bit in 19:0. Safe. -/
  | systemWithBits
  /-- ProgramChange or ChannelAftertouch with nonzero F2. Safe. -/
  | unusedField2
  /-- ControlChange with bit 7 of F1 set. Safe. -/
  | controlTooWide
  deriving DecidableEq, Repr

/-- UNPACK of a system tag: the message, unless a filler bit is set (R95). -/
def unpackSystem (rest : BitVec 20) (m : Message) : Except UnpackRefusal (Option Message) :=
  if rest = 0#20 then .ok (some m) else .error .systemWithBits

/-- UNPACK (R95): the model-side inverse of PACK; the words of R52 are refused. -/
def unpack (w : OutWord) : Except UnpackRefusal (Option Message) :=
  let tag := w.extractLsb' 20 4
  let ch := w.extractLsb' 16 4
  let f1 := w.extractLsb' 8 8
  let f2 := w.extractLsb' 0 8
  let rest := w.extractLsb' 0 20
  if tag = 0x0#4 then (if rest = 0#20 then .ok none else .error .noneWithBits)
  else if tag = 0x1#4 then .ok (some (.noteOff ch f1 f2))
  else if tag = 0x2#4 then .ok (some (.noteOn ch f1 f2))
  else if tag = 0x3#4 then .ok (some (.polyphonicAftertouch ch f1 f2))
  else if tag = 0x4#4 then
    (if f1.extractLsb' 7 1 = 0#1 then .ok (some (.controlChange ch (f1.extractLsb' 0 7) f2))
     else .error .controlTooWide)
  else if tag = 0x5#4 then
    (if f2 = 0#8 then .ok (some (.programChange ch f1)) else .error .unusedField2)
  else if tag = 0x6#4 then
    (if f2 = 0#8 then .ok (some (.channelAftertouch ch f1)) else .error .unusedField2)
  else if tag = 0x7#4 then .ok (some (.pitchBend ch f1 f2))
  else if tag = 0x8#4 then unpackSystem rest .tuneRequest
  else if tag = 0x9#4 then unpackSystem rest .timingClock
  else if tag = 0xA#4 then unpackSystem rest .start
  else if tag = 0xB#4 then unpackSystem rest .stop
  else if tag = 0xC#4 then unpackSystem rest .midiContinue
  else if tag = 0xD#4 then unpackSystem rest .activeSensing
  else if tag = 0xE#4 then unpackSystem rest .systemReset
  else .error .reservedTag

/-- The AllNotesOff constant: ControlChange 123, value 0, on channel 0 (R97). -/
def allNotesOff : Message := .controlChange 0#4 123#7 0#8

/-- SER: a byte group that decodes to the message, for a test harness only (95_test_vectors.md section 7.3). -/
def ser : Message → List Byte
  | .noteOff c n v => [0x8#4 ++ c, n, v]
  | .noteOn c n v => [0x9#4 ++ c, n, v]
  | .polyphonicAftertouch c n p => [0xA#4 ++ c, n, p]
  | .controlChange c k v => [0xB#4 ++ c, zext8 k, v]
  | .programChange c p => [0xC#4 ++ c, p, 0x00#8]
  | .channelAftertouch c p => [0xD#4 ++ c, p, 0x00#8]
  | .pitchBend c l h => [0xE#4 ++ c, l, h]
  | .tuneRequest => [0xF6#8, 0x00#8]
  | .timingClock => [0xF8#8, 0x00#8]
  | .start => [0xFA#8, 0x00#8]
  | .midiContinue => [0xFB#8, 0x00#8]
  | .stop => [0xFC#8, 0x00#8]
  | .activeSensing => [0xFE#8, 0x00#8]
  | .systemReset => [0xFF#8, 0x00#8]

end Sys2Proof.Machine
end

