-- ==== Sys2Proof/Machine/Decoder.lean ====
section
/-! DEFINITION. The whole decoder as the spec writes it, apart from the machine: the port form DECODE (R92), the form on
byte sequences (R93) and how a sequence is put on the lines (R28). -/

namespace Sys2Proof.Machine

/-- DECODE: one total function of the input lines (R92), its case table written as the rule writes it. -/
def decodePort (g : InLines) : OutWord :=
  if g.len = 0#2 ∨ g.len = 1#2 then 0x000000#24
  else
    let channel := channelOf g.b0
    let d1 := g.b1
    let d2 := data2OfLen g.len g.b2
    match classify g.b0 with
    | none => 0x000000#24
    | some .noteOff => 0x1#4 ++ channel ++ d1 ++ d2
    | some .noteOn => 0x2#4 ++ channel ++ d1 ++ d2
    | some .polyphonicAftertouch => 0x3#4 ++ channel ++ d1 ++ d2
    | some .controlChange => 0x4#4 ++ channel ++ 0b0#1 ++ d1.extractLsb' 0 7 ++ d2
    | some .programChange => 0x5#4 ++ channel ++ d1 ++ 0x00#8
    | some .channelAftertouch => 0x6#4 ++ channel ++ d1 ++ 0x00#8
    | some .pitchBend => 0x7#4 ++ channel ++ d1 ++ d2
    | some .tuneRequest => 0x800000#24
    | some .timingClock => 0x900000#24
    | some .start => 0xA00000#24
    | some .stop => 0xB00000#24
    | some .midiContinue => 0xC00000#24
    | some .activeSensing => 0xD00000#24
    | some .systemReset => 0xE00000#24

/-- The message of a recognized category with its channel and data bytes, built per 42_channel_voice.md and
43_system.md (R46, R93). -/
def messageOf (channel : Nibble) (d1 d2 : Byte) : Category → Message
  | .noteOff => .noteOff channel d1 d2
  | .noteOn => .noteOn channel d1 d2
  | .polyphonicAftertouch => .polyphonicAftertouch channel d1 d2
  | .controlChange => .controlChange channel (controlOf d1) d2
  | .programChange => .programChange channel d1
  | .channelAftertouch => .channelAftertouch channel d1
  | .pitchBend => .pitchBend channel d1 d2
  | .tuneRequest => .tuneRequest
  | .timingClock => .timingClock
  | .start => .start
  | .stop => .stop
  | .midiContinue => .midiContinue
  | .activeSensing => .activeSensing
  | .systemReset => .systemReset

/-- decode on a byte sequence (R93): fewer than two bytes fail, an absent third byte is 0, bytes beyond index 2 are
ignored (R29). -/
def decodeGroup : List Byte → Option Message
  | [] => none
  | [_] => none
  | b0 :: d1 :: rest => (classify b0).map (messageOf (channelOf b0) d1 (rest.headD 0x00#8))

/-- The length line: min(len(s), 3) (R28). -/
def lenLine (s : List Byte) : BitVec 2 := BitVec.ofNat 2 (min s.length 3)

/-- How the producer puts a byte sequence on the lines (R28). A line whose byte is absent is don't-care: it carries
whatever `fill` has there, and no claim depends on it (I4). -/
def portForm (fill : InLines) (s : List Byte) : InLines :=
  { len := lenLine s
    b0 := (s[0]?).getD fill.b0
    b1 := (s[1]?).getD fill.b1
    b2 := (s[2]?).getD fill.b2 }

end Sys2Proof.Machine
end

