-- ==== Sys2Proof/Decode.lean ====
section
/-! DEFINITION. Decoding: from the input lines, and from the words of spec/opcode_table.json, to an operation; then the
encoder, written from the same tables (R44, R53). -/

namespace Sys2Proof

/-- The packed input word `IN[25:0] = (in_len, in_b0, in_b1, in_b2)`, first field most significant (R44). -/
def InLines.word (g : InLines) : InWord := g.len ++ g.b0 ++ g.b1 ++ g.b2

/-- The lines a packed input word stands for (R44). -/
def InLines.ofWord (w : InWord) : InLines :=
  { len := w.extractLsb' 24 2, b0 := w.extractLsb' 16 8, b1 := w.extractLsb' 8 8, b2 := w.extractLsb' 0 8 }

/-- One IN26 row of the opcode table: a match/mask pair over `IN` and the category it selects. -/
structure InRow where
  mask : InWord
  pattern : InWord
  category : Category
  deriving DecidableEq, Repr

/-- The word has the row's fixed bits. -/
def InRow.accepts (r : InRow) (w : InWord) : Bool := w &&& r.mask == r.pattern

/-- The IN26 rows of spec/opcode_table.json but for its default row (R76 to R82, R84 to R90). -/
def inTable : List InRow :=
  [ ⟨0x2F00000#26, 0x2800000#26, .noteOff⟩,
    ⟨0x2F00000#26, 0x2900000#26, .noteOn⟩,
    ⟨0x2F00000#26, 0x2A00000#26, .polyphonicAftertouch⟩,
    ⟨0x2F00000#26, 0x2B00000#26, .controlChange⟩,
    ⟨0x2F00000#26, 0x2C00000#26, .programChange⟩,
    ⟨0x2F00000#26, 0x2D00000#26, .channelAftertouch⟩,
    ⟨0x2F00000#26, 0x2E00000#26, .pitchBend⟩,
    ⟨0x2FF0000#26, 0x2F60000#26, .tuneRequest⟩,
    ⟨0x2FF0000#26, 0x2F80000#26, .timingClock⟩,
    ⟨0x2FF0000#26, 0x2FA0000#26, .start⟩,
    ⟨0x2FF0000#26, 0x2FB0000#26, .midiContinue⟩,
    ⟨0x2FF0000#26, 0x2FC0000#26, .stop⟩,
    ⟨0x2FF0000#26, 0x2FE0000#26, .activeSensing⟩,
    ⟨0x2FF0000#26, 0x2FF0000#26, .systemReset⟩ ]

/-- The category of the row that matches; the rows are disjoint, so the order of the search does not matter (R71). -/
def categoryOfWord (w : InWord) : Option Category := (inTable.find? (·.accepts w)).map (·.category)

/-- The operation of a category with the operand fields the table names. -/
def Instr.ofCategory (l : Bit) (c : Nibble) (p q : Byte) : Category → Instr
  | .noteOff => .noteOff l c p q
  | .noteOn => .noteOn l c p q
  | .polyphonicAftertouch => .polyAftertouch l c p q
  | .controlChange => .controlChange l c p q
  | .programChange => .programChange l c p q
  | .channelAftertouch => .channelAftertouch l c p q
  | .pitchBend => .pitchBend l c p q
  | .tuneRequest => .tuneRequest l p q
  | .timingClock => .timingClock l p q
  | .start => .start l p q
  | .midiContinue => .midiContinue l p q
  | .stop => .stop l p q
  | .activeSensing => .activeSensing l p q
  | .systemReset => .systemReset l p q

/-- Decoding the packed input word: the matching row, or the default row DECODE.FAIL (R91). Total: no word traps
(R51). -/
def decodeInWord (w : InWord) : Instr :=
  match categoryOfWord w with
  | some cat =>
    Instr.ofCategory (w.extractLsb' 24 1) (w.extractLsb' 16 4) (w.extractLsb' 8 8) (w.extractLsb' 0 8) cat
  | none => .fail (w.extractLsb' 24 2) (w.extractLsb' 16 8) (w.extractLsb' 8 8) (w.extractLsb' 0 8)

/-- The operation of an RB select: the table of R53, all eight selects defined. -/
def decodeSelect (r : RbLines) : Instr :=
  if r.w = 0#1 then
    if r.op = 0b00#2 then .rbMake7 r.a r.b
    else if r.op = 0b01#2 then .rbAnd7 r.a r.b
    else if r.op = 0b10#2 then .rbOr7 r.a r.b
    else .rbXor7 r.a r.b
  else
    if r.op = 0b00#2 then .rbMake3 r.a r.b
    else if r.op = 0b01#2 then .rbAnd3 r.a r.b
    else if r.op = 0b10#2 then .rbOr3 r.a r.b
    else .rbXor3 r.a r.b

/-- The equality operation at the width `rb_w` selects, for any `rb_op` (R64, R65). -/
def decodeEquality (r : RbLines) : Instr :=
  if r.w = 0#1 then .rbEq7 r.op r.a r.b else .rbEq3 r.op r.a r.b

/-- Decoding a presentation; total. -/
def decode : Request → Instr
  | .decode g => decodeInWord g.word
  | .select r => decodeSelect r
  | .equality r => decodeEquality r

/-- Why a number is no word of the opcode table. -/
inductive DecodeRejection where
  /-- It has a bit set above `IN[25]`: no input lines carry it. Safe: the word is refused, nothing runs. -/
  | inWordTooWide
  /-- It has a bit set above the 3-bit select: no select lines carry it. Safe: the word is refused, nothing runs. -/
  | selectTooWide
  deriving DecidableEq, Repr

/-- The presentation a word of the opcode table stands for, its bits numbered as the table numbers them. The RBSEL3
words fit in one byte and the IN26 words in four; the operand lines `rb_a`, `rb_b` are no bits of the RBSEL3 word, so
they are 0 here. An RBSEL3 word names the select operation, never the equality one (log entries 5 and 9). -/
def requestOfTableWord (nbits w : Nat) : Except DecodeRejection Request :=
  if nbits ≤ 8 then
    if w < 8 then
      .ok (.select { w := BitVec.ofNat 1 (w / 4), op := BitVec.ofNat 2 w, a := 0#8, b := 0#8 })
    else .error .selectTooWide
  else
    if w < 2 ^ 26 then .ok (.decode (InLines.ofWord (BitVec.ofNat 26 w)))
    else .error .inWordTooWide

/-- The operation the decoder reads from a word of the opcode table; `none` where it refuses the word. -/
def decodeTableWord (nbits w : Nat) : Option Instr :=
  match requestOfTableWord nbits w with
  | .ok r => some (decode r)
  | .error _ => none

/-- The lines of a recognized channel-voice group: `in_len = (1, l)`, `in_b0 = (t, c)` (R42, R44). -/
def voiceLines (t : Nibble) (l : Bit) (c : Nibble) (p q : Byte) : Request :=
  .decode { len := 1#1 ++ l, b0 := t ++ c, b1 := p, b2 := q }

/-- The lines of a recognized system group: `in_len = (1, l)`, `in_b0` the exact byte (R42, R44). -/
def systemLines (st : Byte) (l : Bit) (p q : Byte) : Request :=
  .decode { len := 1#1 ++ l, b0 := st, b1 := p, b2 := q }

/-- The lines that ask for each operation, from the same tables as the decoder (R43, R44, R53). -/
def encode : Instr → Request
  | .noteOff l c p q => voiceLines 0x8#4 l c p q
  | .noteOn l c p q => voiceLines 0x9#4 l c p q
  | .polyAftertouch l c p q => voiceLines 0xA#4 l c p q
  | .controlChange l c p q => voiceLines 0xB#4 l c p q
  | .programChange l c p q => voiceLines 0xC#4 l c p q
  | .channelAftertouch l c p q => voiceLines 0xD#4 l c p q
  | .pitchBend l c p q => voiceLines 0xE#4 l c p q
  | .tuneRequest l p q => systemLines 0xF6#8 l p q
  | .timingClock l p q => systemLines 0xF8#8 l p q
  | .start l p q => systemLines 0xFA#8 l p q
  | .midiContinue l p q => systemLines 0xFB#8 l p q
  | .stop l p q => systemLines 0xFC#8 l p q
  | .activeSensing l p q => systemLines 0xFE#8 l p q
  | .systemReset l p q => systemLines 0xFF#8 l p q
  | .fail len st p q => .decode { len := len, b0 := st, b1 := p, b2 := q }
  | .rbMake7 a b => .select { w := 0#1, op := 0b00#2, a := a, b := b }
  | .rbAnd7 a b => .select { w := 0#1, op := 0b01#2, a := a, b := b }
  | .rbOr7 a b => .select { w := 0#1, op := 0b10#2, a := a, b := b }
  | .rbXor7 a b => .select { w := 0#1, op := 0b11#2, a := a, b := b }
  | .rbMake3 a b => .select { w := 1#1, op := 0b00#2, a := a, b := b }
  | .rbAnd3 a b => .select { w := 1#1, op := 0b01#2, a := a, b := b }
  | .rbOr3 a b => .select { w := 1#1, op := 0b10#2, a := a, b := b }
  | .rbXor3 a b => .select { w := 1#1, op := 0b11#2, a := a, b := b }
  | .rbEq7 op a b => .equality { w := 0#1, op := op, a := a, b := b }
  | .rbEq3 op a b => .equality { w := 1#1, op := op, a := a, b := b }

end Sys2Proof
end

