-- ==== Sys2Proof/Machine/Flags.lean ====
section
/-! DEFINITION. The block has no flags (R17); its two 1-bit indications are functions of the current values alone:
`out_valid` and `rb_eq`. -/

namespace Sys2Proof.Machine

/-- `out_valid = (out_word[23:20] != 0)` (R48). -/
def outValidOf (w : OutWord) : Bit := if w.extractLsb' 20 4 = 0#4 then 0#1 else 1#1

/-- `rb_eq`: equality of the operands truncated to the width `rb_w` selects (R64, R65). -/
def rbEqOf (w : Bit) (a b : Byte) : Bit := if a &&& rbMask w = b &&& rbMask w then 1#1 else 0#1

end Sys2Proof.Machine
end

