-- ==== Sys2Proof/Config.lean ====
section
/-! DEFINITION. What an implementation fixes and the values the spec leaves open. Every constant here has no body, so
no proof can see its value. -/

namespace Sys2Proof

/-- `DECODE_LATENCY`, in cycles: an OPEN named parameter on which no rule depends (R9, R118, D1; log entry 8). -/
opaque Config.decodeLatency : Nat

/-- What `out_word` shows when it is sampled while the decode lines change: any value (R112, D11, I5; log entry 7). -/
opaque Config.anyOutWord : Nat → OutWord

/-- What `out_valid` shows when it is sampled while the decode lines change: any value (R112, D11, I5; log entry 7). -/
opaque Config.anyOutValid : Nat → Bit

/-- What `rb_y` shows when it is sampled while the RB lines change: any value (R112, D11, I5; log entry 7). -/
opaque Config.anyRbY : Nat → Byte

/-- What `rb_eq` shows when it is sampled while the RB lines change: any value (R112, D11, I5; log entry 7). -/
opaque Config.anyRbEq : Nat → Bit

end Sys2Proof
end

