-- ==== Sys2Proof/Machine/State.lean ====
section
/-! DEFINITION. State: the port lines of R22, which are all the spec gives the block (it has no registers, no memory, no
program counter, no flags and no hidden state: R15 to R21), and the model's own view of the producer that presents the
operations. -/

namespace Sys2Proof.Machine

/-- The input lines, the output lines as they show at the last operation, and the producer. -/
structure State where
  /-- `in_len`, `in_b0`, `in_b1`, `in_b2` (R28). -/
  inLines : InLines
  /-- `out_word`, `TAG`, `CH`, `F1`, `F2` from the most significant bits down (R48). -/
  outWord : OutWord
  /-- `out_valid` (R17, R48). -/
  outValid : Bit
  /-- `rb_w`, `rb_op`, `rb_a`, `rb_b` (R55). -/
  rbLines : RbLines
  /-- `rb_y` (R55). -/
  rbY : Byte
  /-- `rb_eq` (R64, R65). -/
  rbEq : Bit
  /-- The model's own: which lines carry the operation now presented (log entry 2). -/
  port : Port
  /-- The model's own: what the producer will present, the next one first (R16, R37; log entry 1). -/
  pending : List Presentation
  /-- The model's own: how many free values have been drawn (log entry 7). -/
  freeCount : Nat
  deriving DecidableEq, Repr

/-- Why the machine stops. The block has no fault: its one error kind is an ordinary output, the word 0x000000
(R51, R91, R99), so this type has no constructor, nothing raises one, and that is exact (log entry 10). -/
inductive Fault where
  deriving DecidableEq, Repr

/-- Why an operation has no meaning. -/
inductive Refusal where
  /-- Raised by `exec` for an operation of the table that the model gives no meaning yet; no arm raises it. Safe. -/
  | notModelled (mnemonic : String)
  deriving DecidableEq, Repr

/-- The state after reset: outputs as R27 and D10 give them, which is also what the block drives for the input lines
chosen here, all zero (an empty group and MAKE7 of 0): the spec gives the input lines no value, DESIGN CHOICE, log
entry 4. The producer has nothing pending: DESIGN CHOICE, log entries 1 and 2. -/
def State.reset : State :=
  { inLines := { len := 0#2, b0 := 0#8, b1 := 0#8, b2 := 0#8 }
    outWord := 0x000000#24
    outValid := 0#1
    rbLines := { w := 0#1, op := 0b00#2, a := 0#8, b := 0#8 }
    rbY := 0x00#8
    rbEq := 1#1
    port := .decode
    pending := []
    freeCount := 0 }

end Sys2Proof.Machine
end

