-- ==== Sys2Proof/Machine/Ops.lean ====
section
/-! DEFINITION. The named operations over the lines: driving the outputs, presenting an operation, fetching the next
presentation, and what a consumer samples. There is no memory to read or write (R20), and no exception to take or return
from: the failure outcome is one more value of `out_word` (R91, R99, R103). -/

namespace Sys2Proof.Machine

/-- The one shape of a meaning's answer: the outcome of an operation that completes. -/
abbrev Result := Host.Outcome State Fault Refusal

/-- `out <- w`, with `out_valid` following it (R12, R48). -/
def State.driveOut (s : State) (w : OutWord) : State := { s with outWord := w, outValid := outValidOf w }

/-- `out <- PACK(m)` (R94). -/
def State.driveMessage (s : State) (m : Option Message) : State := s.driveOut (pack m)

/-- `rb.y <- y`, with `rb_eq` driven in parallel at the width of `rb_w` (R53, R55). -/
def State.driveSelect (s : State) (w : Bit) (y a b : Byte) : State := { s with rbY := y, rbEq := rbEqOf w a b }

/-- `rb_eq <- …` and nothing else (R64, R65). -/
def State.driveEquality (s : State) (w : Bit) (a b : Byte) : State := { s with rbEq := rbEqOf w a b }

/-- The decoder's outputs follow its lines as they are held: it stores nothing, so a value sampled while they changed
is gone (R21, R92; log entry 3). -/
def State.settleDecode (s : State) : State := s.driveOut (decodePort s.inLines)

/-- The RB unit's outputs follow its lines as they are held: it has no storage (R55; log entry 3). -/
def State.settleRb (s : State) : State := s.driveSelect s.rbLines.w (rbResult s.rbLines) s.rbLines.a s.rbLines.b

/-- The values of a presentation arrive on the lines of its unit. The other unit's lines stay (log entry 3) and its outputs
are the function of them. An equality operation rides on a select, whose result the unit drives on `rb_y` in parallel
(R53, R55; log entry 6). -/
def State.present (s : State) : Request → State
  | .decode g => { s.settleRb with inLines := g, port := .decode }
  | .select r => { s.settleDecode with rbLines := r, port := .rbSelect }
  | .equality r => { s.settleDecode with rbLines := r, rbY := rbResult r, port := .rbEquality }

/-- The operation the lines carry now (log entry 2). -/
def State.heldRequest (s : State) : Request :=
  match s.port with
  | .decode => .decode s.inLines
  | .rbSelect => .select s.rbLines
  | .rbEquality => .equality s.rbLines

/-- The next operation: the producer's next presentation; where it has none left it keeps the lines as they are, and
the same operation is there again (R35, R112; log entries 1 and 2). -/
def State.nextPresentation (s : State) : Presentation :=
  match s.pending with
  | [] => { request := s.heldRequest, stable := true }
  | p :: _ => p

/-- The state in which the next operation runs: its values on the lines, and the producer one presentation on. -/
def State.afterPresentation (s : State) : State :=
  ({ s with pending := s.pending.tail } : State).present s.nextPresentation.request

/-- What the lines show when a unit's output is sampled while its inputs change: any value, on each line of that unit
(R112, D11, I5). -/
def State.sampleChanging (s : State) : Request → State
  | .decode _ =>
    { s with
      outWord := Config.anyOutWord s.freeCount
      outValid := Config.anyOutValid s.freeCount
      freeCount := s.freeCount + 1 }
  | .select _ | .equality _ =>
    { s with
      rbY := Config.anyRbY s.freeCount
      rbEq := Config.anyRbEq s.freeCount
      freeCount := s.freeCount + 1 }

/-- The outputs a consumer samples: those driven, where the producer held the lines stable for the whole operation. -/
def State.sampled (s : State) (p : Presentation) : State := if p.stable then s else s.sampleChanging p.request

/-- The outcome of an operation with its outputs as they are sampled. -/
def sampleResult (p : Presentation) : Result → Result
  | .next s => .next (s.sampled p)
  | .fault r => .fault r
  | .refused r => .refused r

/-- The producer will present this before anything else it has pending. -/
def State.presentFirst (s : State) (p : Presentation) : State := { s with pending := p :: s.pending }

/-- A stable presentation of a decode of these lines. -/
def stableDecode (g : InLines) : Presentation := { request := .decode g, stable := true }

/-- The producer will first present the operation of a word of the opcode table; a word the table cannot hold is
presented by nobody (log entry 9). -/
def State.presentTableWord (s : State) (nbits w : Nat) : State :=
  match requestOfTableWord nbits w with
  | .ok r => s.presentFirst { request := r, stable := true }
  | .error _ => s

/-- The latency of an operation in cycles: the open parameter, the same for every category and for the failure outcome
(R118, D1). No step depends on it. -/
def operationLatency (_ : Instr) : Nat := Config.decodeLatency

end Sys2Proof.Machine
end

