-- ==== Sys2Proof/Machine/ChannelVoice.lean ====
section
/-! DEFINITION. The seven channel-voice decodes (42_channel_voice.md). Each is reached only with `in_len >= 2` (R75, the
table fixes `IN[25] = 1`); data bytes are not masked but for `control` (R33, R45). -/

namespace Sys2Proof.Machine

/-- NoteOff (R76). -/
def execNoteOff (l : Bit) (c : Nibble) (p q : Byte) (s : State) : Result :=
  .next (s.driveMessage (some (.noteOff c p (data2 l q))))

/-- NoteOn (R77); velocity 0 stays NoteOn. -/
def execNoteOn (l : Bit) (c : Nibble) (p q : Byte) (s : State) : Result :=
  .next (s.driveMessage (some (.noteOn c p (data2 l q))))

/-- PolyphonicAftertouch (R78). -/
def execPolyAftertouch (l : Bit) (c : Nibble) (p q : Byte) (s : State) : Result :=
  .next (s.driveMessage (some (.polyphonicAftertouch c p (data2 l q))))

/-- ControlChange (R79): `control` is RB.MAKE7 of data1, `controlValue` the raw data2. -/
def execControlChange (l : Bit) (c : Nibble) (p q : Byte) (s : State) : Result :=
  .next (s.driveMessage (some (.controlChange c (controlOf p) (data2 l q))))

/-- ProgramChange (R80): data2 does not reach the result. -/
def execProgramChange (_l : Bit) (c : Nibble) (p _q : Byte) (s : State) : Result :=
  .next (s.driveMessage (some (.programChange c p)))

/-- ChannelAftertouch (R81): data2 does not reach the result. -/
def execChannelAftertouch (_l : Bit) (c : Nibble) (p _q : Byte) (s : State) : Result :=
  .next (s.driveMessage (some (.channelAftertouch c p)))

/-- PitchBend (R82): `lsb` and `msb` pass through as two raw bytes. -/
def execPitchBend (l : Bit) (c : Nibble) (p q : Byte) (s : State) : Result :=
  .next (s.driveMessage (some (.pitchBend c p (data2 l q))))

end Sys2Proof.Machine
end

