-- ==== Sys2Proof/Machine/RestrictedByte.lean ====
section
/-! DEFINITION. The ten restricted-byte operations (40_restricted_byte.md): a select drives `rb_y` and `rb_eq`, an
equality operation drives `rb_eq` only; none can fail (R68). -/

namespace Sys2Proof.Machine

/-- RB.MAKE7 (R56); `b` reaches only `rb_eq`. -/
def execRbMake7 (a b : Byte) (s : State) : Result := .next (s.driveSelect 0#1 (rbMake 0#1 a) a b)

/-- RB.AND7 (R58). -/
def execRbAnd7 (a b : Byte) (s : State) : Result := .next (s.driveSelect 0#1 (rbAnd 0#1 a b) a b)

/-- RB.OR7 (R59). -/
def execRbOr7 (a b : Byte) (s : State) : Result := .next (s.driveSelect 0#1 (rbOr 0#1 a b) a b)

/-- RB.XOR7 (R60). -/
def execRbXor7 (a b : Byte) (s : State) : Result := .next (s.driveSelect 0#1 (rbXor 0#1 a b) a b)

/-- RB.MAKE3 (R57); `b` reaches only `rb_eq`. -/
def execRbMake3 (a b : Byte) (s : State) : Result := .next (s.driveSelect 1#1 (rbMake 1#1 a) a b)

/-- RB.AND3 (R61). -/
def execRbAnd3 (a b : Byte) (s : State) : Result := .next (s.driveSelect 1#1 (rbAnd 1#1 a b) a b)

/-- RB.OR3 (R62). -/
def execRbOr3 (a b : Byte) (s : State) : Result := .next (s.driveSelect 1#1 (rbOr 1#1 a b) a b)

/-- RB.XOR3 (R63). -/
def execRbXor3 (a b : Byte) (s : State) : Result := .next (s.driveSelect 1#1 (rbXor 1#1 a b) a b)

/-- RB.EQ7 (R64): `rb_eq` only, whatever `rb_op` is. -/
def execRbEq7 (_op : BitVec 2) (a b : Byte) (s : State) : Result := .next (s.driveEquality 0#1 a b)

/-- RB.EQ3 (R65): `rb_eq` only, whatever `rb_op` is. -/
def execRbEq3 (_op : BitVec 2) (a b : Byte) (s : State) : Result := .next (s.driveEquality 1#1 a b)

end Sys2Proof.Machine
end

