-- ==== Sys2Proof/Machine/System.lean ====
section
/-! DEFINITION. The seven system decodes and the failure outcome (43_system.md). A system decode ignores the data bytes
and changes nothing in the block but the output word (R83). -/

namespace Sys2Proof.Machine

/-- TuneRequest (R84). -/
def execTuneRequest (_l : Bit) (_p _q : Byte) (s : State) : Result := .next (s.driveMessage (some .tuneRequest))

/-- TimingClock (R85); no clock is counted. -/
def execTimingClock (_l : Bit) (_p _q : Byte) (s : State) : Result := .next (s.driveMessage (some .timingClock))

/-- Start (R86). -/
def execStart (_l : Bit) (_p _q : Byte) (s : State) : Result := .next (s.driveMessage (some .start))

/-- Continue (R87). -/
def execContinue (_l : Bit) (_p _q : Byte) (s : State) : Result := .next (s.driveMessage (some .midiContinue))

/-- Stop (R88). -/
def execStop (_l : Bit) (_p _q : Byte) (s : State) : Result := .next (s.driveMessage (some .stop))

/-- ActiveSensing (R89); no timeout is kept. -/
def execActiveSensing (_l : Bit) (_p _q : Byte) (s : State) : Result := .next (s.driveMessage (some .activeSensing))

/-- SystemReset (R90): a value for the consumer; it resets nothing here (R83). -/
def execSystemReset (_l : Bit) (_p _q : Byte) (s : State) : Result := .next (s.driveMessage (some .systemReset))

/-- The failure outcome (R91): the `None` word and nothing else; no fault, no cause (R99, R101). -/
def execFail (_len : BitVec 2) (_st _p _q : Byte) (s : State) : Result := .next (s.driveMessage none)

end Sys2Proof.Machine
end

