-- ==== Sys2Proof/Machine/Dispatch.lean ====
section
/-! DEFINITION. The dispatch of an operation to its meaning, one arm per row of spec/opcode_table.json. -/

namespace Sys2Proof.Machine

def exec (i : Instr) (s : State) : Host.Outcome State Fault Refusal :=
  match i with
  | .noteOff l c p q => Sys2Proof.Machine.execNoteOff l c p q s
  | .noteOn l c p q => Sys2Proof.Machine.execNoteOn l c p q s
  | .polyAftertouch l c p q => Sys2Proof.Machine.execPolyAftertouch l c p q s
  | .controlChange l c p q => Sys2Proof.Machine.execControlChange l c p q s
  | .programChange l c p q => Sys2Proof.Machine.execProgramChange l c p q s
  | .channelAftertouch l c p q => Sys2Proof.Machine.execChannelAftertouch l c p q s
  | .pitchBend l c p q => Sys2Proof.Machine.execPitchBend l c p q s
  | .tuneRequest l p q => Sys2Proof.Machine.execTuneRequest l p q s
  | .timingClock l p q => Sys2Proof.Machine.execTimingClock l p q s
  | .start l p q => Sys2Proof.Machine.execStart l p q s
  | .midiContinue l p q => Sys2Proof.Machine.execContinue l p q s
  | .stop l p q => Sys2Proof.Machine.execStop l p q s
  | .activeSensing l p q => Sys2Proof.Machine.execActiveSensing l p q s
  | .systemReset l p q => Sys2Proof.Machine.execSystemReset l p q s
  | .fail len st p q => Sys2Proof.Machine.execFail len st p q s
  | .rbMake7 a b => Sys2Proof.Machine.execRbMake7 a b s
  | .rbAnd7 a b => Sys2Proof.Machine.execRbAnd7 a b s
  | .rbOr7 a b => Sys2Proof.Machine.execRbOr7 a b s
  | .rbXor7 a b => Sys2Proof.Machine.execRbXor7 a b s
  | .rbMake3 a b => Sys2Proof.Machine.execRbMake3 a b s
  | .rbAnd3 a b => Sys2Proof.Machine.execRbAnd3 a b s
  | .rbOr3 a b => Sys2Proof.Machine.execRbOr3 a b s
  | .rbXor3 a b => Sys2Proof.Machine.execRbXor3 a b s
  | .rbEq7 op a b => Sys2Proof.Machine.execRbEq7 op a b s
  | .rbEq3 op a b => Sys2Proof.Machine.execRbEq3 op a b s

end Sys2Proof.Machine
end

