-- ==== Sys2Proof/Machine/Step.lean ====
section
/-! DEFINITION. One step is one operation (D1, R34): the next presentation's values arrive on the lines as one snapshot,
the operation they decode to runs, and its outputs are sampled. -/

namespace Sys2Proof.Machine

/-- One operation of the block. There is no program counter to advance (R16): which operation follows is the
producer's choice. -/
def step (s : State) : Host.Outcome State Fault Refusal :=
  sampleResult s.nextPresentation (exec (decode s.nextPresentation.request) s.afterPresentation)

/-- The state whose very next step runs the operation of this word of the opcode table: the producer presents it
first (log entry 1). -/
def State.withFetchWord (s : State) (nbits w : Nat) : State := s.presentTableWord nbits w

end Sys2Proof.Machine
end

