-- ==== Sys2Proof/WellFormed.lean ====
section
/-! DEFINITION. Which terms of `Instr` are operations of the block. The operand types already bound every field; the one
check left is that the default row DECODE.FAIL stands only for words no other row matches (opcode_table.json, R91). -/

namespace Sys2Proof

/-- DECODE.FAIL applies when `IN[25] = 0` or the status byte is unrecognized (R91, R43); every other term is
well formed. -/
def Instr.wf : Instr → Bool
  | .fail len st _ _ => decide (len.extractLsb' 1 1 = 0#1) || (Machine.classify st).isNone
  | .noteOff _ _ _ _ | .noteOn _ _ _ _ | .polyAftertouch _ _ _ _ | .controlChange _ _ _ _
  | .programChange _ _ _ _ | .channelAftertouch _ _ _ _ | .pitchBend _ _ _ _ => true
  | .tuneRequest _ _ _ | .timingClock _ _ _ | .start _ _ _ | .midiContinue _ _ _ | .stop _ _ _
  | .activeSensing _ _ _ | .systemReset _ _ _ => true
  | .rbMake7 _ _ | .rbAnd7 _ _ | .rbOr7 _ _ | .rbXor7 _ _ | .rbMake3 _ _ | .rbAnd3 _ _ | .rbOr3 _ _
  | .rbXor3 _ _ => true
  | .rbEq7 _ _ _ | .rbEq3 _ _ _ => true

end Sys2Proof
end

