-- ==== Sys2Proof/Safety.lean ====
section
/-! DEFINITION. The terms claims are stated in: what a consistent set of lines is, which output words the block never
drives, and the frames of the two units. -/

namespace Sys2Proof.Machine

/-- The outputs of both units are the functions of their own input lines that the spec gives (R55, R92): the block holds
nothing else (R21). -/
structure LinesSettled (s : State) : Prop where
  outWord : s.outWord = decodePort s.inLines
  outValid : s.outValid = outValidOf s.outWord
  rbY : s.rbY = rbResult s.rbLines
  rbEq : s.rbEq = rbEqOf s.rbLines.w s.rbLines.a s.rbLines.b

/-- The producer honours R112 in everything it has still to present. -/
def ProducerHoldsLines (s : State) : Prop := ∀ p ∈ s.pending, p.stable = true

/-- The invariant of a run whose producer honours R112. -/
structure Settled (s : State) : Prop where
  lines : LinesSettled s
  producer : ProducerHoldsLines s

/-- The output words the block never drives, as R52 lists them. -/
def neverDriven (w : OutWord) : Bool :=
  let tag := w.extractLsb' 20 4
  let low20 := w.extractLsb' 0 20
  tag == 0xF#4
    || (tag == 0x0#4 && low20 != 0#20)
    || (decide (0x8#4 ≤ tag ∧ tag ≤ 0xE#4) && low20 != 0#20)
    || ((tag == 0x5#4 || tag == 0x6#4) && w.extractLsb' 0 8 != 0#8)
    || (tag == 0x4#4 && w.extractLsb' 15 1 == 1#1)

/-- The four fields of an output word (R48). -/
structure HasFields (w : OutWord) (tag ch : Nibble) (f1 f2 : Byte) : Prop where
  tag : w.extractLsb' 20 4 = tag
  ch : w.extractLsb' 16 4 = ch
  f1 : w.extractLsb' 8 8 = f1
  f2 : w.extractLsb' 0 8 = f2

/-- The lines and the producer are as before: what no operation's meaning changes. -/
structure SameInputs (s t : State) : Prop where
  inLines : t.inLines = s.inLines
  rbLines : t.rbLines = s.rbLines
  port : t.port = s.port
  pending : t.pending = s.pending
  freeCount : t.freeCount = s.freeCount

/-- The frame of a decode: only `out_word` and `out_valid` may differ. -/
structure DecodeFrame (s t : State) : Prop extends SameInputs s t where
  rbY : t.rbY = s.rbY
  rbEq : t.rbEq = s.rbEq

/-- The frame of an RB select: only `rb_y` and `rb_eq` may differ. -/
structure SelectFrame (s t : State) : Prop extends SameInputs s t where
  outWord : t.outWord = s.outWord
  outValid : t.outValid = s.outValid

/-- The frame of an RB equality operation: only `rb_eq` may differ. -/
structure EqualityFrame (s t : State) : Prop extends SelectFrame s t where
  rbY : t.rbY = s.rbY

/-- The operation answers a next state and `P` holds of it. -/
def Completes (r : Result) (P : State → Prop) : Prop := ∃ t, r = .next t ∧ P t

/-- A stable presentation of an RB select. -/
def stableSelect (r : RbLines) : Presentation := { request := .select r, stable := true }

/-- A stable presentation of an RB equality operation. -/
def stableEquality (r : RbLines) : Presentation := { request := .equality r, stable := true }

/-- `k` operations one after another, stopping where one has no next state. -/
def runSteps : Nat → State → Result
  | 0, s => .next s
  | k + 1, s =>
    match step s with
    | .next t => runSteps k t
    | .fault r => .fault r
    | .refused r => .refused r

/-- One step with this byte sequence presented as a stable input group, its absent lines carrying `fill` (R28). -/
def stepOnGroup (s : State) (fill : InLines) (bytes : List Byte) : Result :=
  step (s.presentFirst (stableDecode (portForm fill bytes)))

end Sys2Proof.Machine
end

