-- ==== Sys2Proof/Certificates/Slice0/Obligations.lean ====
section
/-! DEFINITION. The statements for the provers, from the numbered rules of spec/. Where a clause rests on a decision the
spec marks as its own (D<n>) or on the model's own choice (a log entry), the docstring says so. -/

open Sys2Proof Sys2Proof.Machine

/-! ## The shapes the result statements share -/

/-- One channel-voice row: the operation the lines decode to, its result on `in_len` 2 and 3, its frame, and the length
failure (R75). `first` and `second` say what F1 and F2 hold of data1 and data2. -/
def Sys2Proof.Slice0.VoiceRow (mk : Bit → Nibble → Byte → Byte → Instr) (t tag : Nibble)
    (first second : Byte → Byte) : Prop :=
  ∀ (s : State) (c : Nibble) (p q : Byte),
    (∀ l : Bit,
      decode (.decode { len := 1#1 ++ l, b0 := t ++ c, b1 := p, b2 := q }) = mk l c p q ∧
      Completes (exec (mk l c p q) s) fun u =>
        HasFields u.outWord tag c (first p) (second (if 1#1 ++ l = 3#2 then q else 0x00#8)) ∧
        u.outValid = 1#1 ∧ DecodeFrame s u) ∧
    (∀ len : BitVec 2, len < 2#2 →
      Completes (exec (decode (.decode { len := len, b0 := t ++ c, b1 := p, b2 := q })) s) fun u =>
        u.outWord = 0x000000#24 ∧ u.outValid = 0#1 ∧ DecodeFrame s u)

/-- One system row: the operation the exact status byte decodes to, its one output word whatever the data bytes are, its
frame, and the length failure (R83). -/
def Sys2Proof.Slice0.SystemRow (mk : Bit → Byte → Byte → Instr) (st : Byte) (w : OutWord) : Prop :=
  ∀ (s : State) (p q : Byte),
    (∀ l : Bit,
      decode (.decode { len := 1#1 ++ l, b0 := st, b1 := p, b2 := q }) = mk l p q ∧
      Completes (exec (mk l p q) s) fun u => u.outWord = w ∧ u.outValid = 1#1 ∧ DecodeFrame s u) ∧
    (∀ len : BitVec 2, len < 2#2 →
      Completes (exec (decode (.decode { len := len, b0 := st, b1 := p, b2 := q })) s) fun u =>
        u.outWord = 0x000000#24 ∧ u.outValid = 0#1 ∧ DecodeFrame s u)

/-- One 7-bit select row: the operation of the select, `rb_y` as the low 7 bits of `f a b` zero-extended, `rb_eq` as
equality of the low 7 bits, and the frame. -/
def Sys2Proof.Slice0.Select7Row (mk : Byte → Byte → Instr) (op : BitVec 2) (f : Byte → Byte → Byte) : Prop :=
  ∀ (s : State) (a b : Byte),
    decode (.select { w := 0#1, op := op, a := a, b := b }) = mk a b ∧
    Completes (exec (mk a b) s) fun u =>
      u.rbY = ((f a b).extractLsb' 0 7).setWidth 8 ∧
      u.rbEq = (if a.extractLsb' 0 7 = b.extractLsb' 0 7 then 1#1 else 0#1) ∧ SelectFrame s u

/-- One 3-bit select row. -/
def Sys2Proof.Slice0.Select3Row (mk : Byte → Byte → Instr) (op : BitVec 2) (f : Byte → Byte → Byte) : Prop :=
  ∀ (s : State) (a b : Byte),
    decode (.select { w := 1#1, op := op, a := a, b := b }) = mk a b ∧
    Completes (exec (mk a b) s) fun u =>
      u.rbY = ((f a b).extractLsb' 0 3).setWidth 8 ∧
      u.rbEq = (if a.extractLsb' 0 3 = b.extractLsb' 0 3 then 1#1 else 0#1) ∧ SelectFrame s u

/-! ## Reset -/

/-- After reset the outputs are the `None` word and MAKE of 0, with `rb_eq` 1 (R27, D10: the spec's own decision), and
no word is shown that would be a SystemReset message (R110). -/
def Obligations.ResetShowsNoneWordAndMakeOfZero : Prop :=
  State.reset.outWord = 0x000000#24 ∧ State.reset.outValid = 0#1 ∧ State.reset.rbY = 0x00#8 ∧
  State.reset.rbEq = 1#1 ∧ State.reset.outWord ≠ packMessage .systemReset

/-- The invariant holds at reset: the outputs at reset are the functions of the reset input lines. The values of those
input lines are the model's choice (log entry 4). -/
def Obligations.ResetIsSettled : Prop := Settled State.reset

/-! ## The step -/

/-- A step runs the decoded operation: of the producer's next presentation, with its values on the lines; or, when the
producer has nothing left, of the lines as they are. Where the producer did not hold the lines, only the sampling of the
outputs differs. The producer's list is the model's own (log entries 1, 2, 7). -/
def Obligations.StepRunsTheDecodedOperation : Prop :=
  ∀ s : State,
    (∀ p rest, s.pending = p :: rest → p.stable = true →
      step s = exec (decode p.request) (({ s with pending := rest } : State).present p.request)) ∧
    (∀ p rest, s.pending = p :: rest → p.stable = false →
      step s = sampleResult p
        (exec (decode p.request) (({ s with pending := rest } : State).present p.request))) ∧
    (s.pending = [] → step s = exec (decode s.heldRequest) (s.present s.heldRequest))

/-- Every step from a settled state leads to a settled state: the outputs stay the functions of the current input lines
that R92 and R55 give, and nothing else is kept (R21). -/
def Obligations.StepKeepsSettled : Prop :=
  ∀ s t : State, Settled s → step s = .next t → Settled t

/-- No run stops, of any length, from any state: the decode is total and never faults (R92), and the restricted-byte
unit never fails (R68). That a step with nothing pending runs the operation on the held lines again is the model's
choice (log entry 2). -/
def Obligations.NoRunEverStops : Prop :=
  ∀ (k : Nat) (s : State), ∃ t : State, runSteps k s = .next t

/-- No meaning changes an input line or the producer, and a meaning drives the outputs of one unit only (R35, R22 with
D8). -/
def Obligations.EveryMeaningKeepsLinesAndTheOtherUnit : Prop :=
  ∀ (i : Instr) (s t : State), exec i s = .next t →
    SameInputs s t ∧
    ((t.rbY = s.rbY ∧ t.rbEq = s.rbEq) ∨ (t.outWord = s.outWord ∧ t.outValid = s.outValid))

/-- Whatever is presented, and whether or not it is held stable, after a decode presentation the RB outputs are the
functions of the RB input lines, and after an RB presentation `out_word` and `out_valid` are the functions of the decode
input lines (R22, D8, R55, R92); so from settled lines the other unit's outputs do not change at all. That the other
unit's input lines stay as they were is the model's deduction (log entry 3): no rule says it in words. -/
def Obligations.UnitsAreIndependent : Prop :=
  ∀ (s t : State) (p : Presentation), step (s.presentFirst p) = .next t →
    (∀ g, p.request = .decode g →
      t.rbLines = s.rbLines ∧ t.rbY = rbResult s.rbLines ∧
      t.rbEq = rbEqOf s.rbLines.w s.rbLines.a s.rbLines.b ∧
      (LinesSettled s → t.rbY = s.rbY ∧ t.rbEq = s.rbEq)) ∧
    (∀ r, p.request = .select r ∨ p.request = .equality r →
      t.inLines = s.inLines ∧ t.outWord = decodePort s.inLines ∧ t.outValid = outValidOf (decodePort s.inLines) ∧
      (LinesSettled s → t.outWord = s.outWord ∧ t.outValid = s.outValid))

/-- A step on a presentation that is held stable, of either unit and from every state, whatever its output lines showed
before, leaves the outputs of BOTH units the functions of their current input lines (R55, R92, R21): a value sampled
while lines changed is not stored. -/
def Obligations.StableStepSettlesEveryOutput : Prop :=
  ∀ (s t : State) (p : Presentation), p.stable = true → step (s.presentFirst p) = .next t → LinesSettled t

/-- Presenting the same values again gives the same outputs again (R35). The second clause, that with nothing pending the
lines as they are give the same state again, is about the model's own choice of what a step then runs (log entry 2). -/
def Obligations.PresentingAgainGivesTheSameAgain : Prop :=
  (∀ (s t : State) (p : Presentation), p.stable = true → step (s.presentFirst p) = .next t →
    step (t.presentFirst p) = .next t) ∧
  (∀ s t : State, s.pending = [] → step s = .next t → step t = .next t)

/-- Two states with any two histories give equal outputs for equal stable presentations (R21, R26). -/
def Obligations.OutputsForgetTheHistory : Prop :=
  ∀ (s s' t t' : State),
    (∀ g, step (s.presentFirst (stableDecode g)) = .next t → step (s'.presentFirst (stableDecode g)) = .next t' →
      t.outWord = t'.outWord ∧ t.outValid = t'.outValid) ∧
    (∀ r, step (s.presentFirst (stableSelect r)) = .next t → step (s'.presentFirst (stableSelect r)) = .next t' →
      t.rbY = t'.rbY ∧ t.rbEq = t'.rbEq) ∧
    (∀ r, step (s.presentFirst (stableEquality r)) = .next t → step (s'.presentFirst (stableEquality r)) = .next t' →
      t.rbY = t'.rbY ∧ t.rbEq = t'.rbEq)

/-- The last operation of a run shows the decode of its own group, whatever was presented before it and however (R37):
so a sequence of groups gives the decodes of its elements, in order. The producer's list is the model's own (log
entry 1). -/
def Obligations.RunShowsTheDecodeOfItsLastGroup : Prop :=
  ∀ (before : List Presentation) (g : InLines) (after : List Presentation) (s : State),
    s.pending = before ++ stableDecode g :: after →
    ∃ t : State, runSteps (before.length + 1) s = .next t ∧
      t.outWord = decodePort g ∧ t.outValid = outValidOf (decodePort g) ∧ t.inLines = g ∧ t.pending = after

/-- The same for a run that ends in a stable select of the restricted-byte unit (R21, R55). The producer's list is the
model's own (log entry 1). -/
def Obligations.RunShowsTheResultOfItsLastSelect : Prop :=
  ∀ (before : List Presentation) (r : RbLines) (after : List Presentation) (s : State),
    s.pending = before ++ stableSelect r :: after →
    ∃ t : State, runSteps (before.length + 1) s = .next t ∧
      t.rbY = rbResult r ∧ t.rbEq = rbEqOf r.w r.a r.b ∧ t.rbLines = r ∧ t.pending = after

/-- An output sampled while the producer changes the lines is a free value on each line of that unit, and nothing else
is lost: the other unit's outputs are the functions of its own lines, and the next step shows the right values on every
line, whether it presents an operation of the same unit, one of the other unit (R55: nothing is stored), or nothing (R112,
D11). The free values and their counter are the model's own (log entry 7), and so is that a step with nothing pending runs
the operation on the held lines again (log entry 2); that the other unit's input lines stay as they were is the model's
deduction (log entry 3). -/
def Obligations.ChangingLinesSampleFreeValues : Prop :=
  ∀ s : State, s.pending = [] →
    (∀ g : InLines,
      Completes (step (s.presentFirst { request := .decode g, stable := false })) fun t =>
        t.outWord = Config.anyOutWord s.freeCount ∧ t.outValid = Config.anyOutValid s.freeCount ∧
        t.freeCount = s.freeCount + 1 ∧ t.inLines = g ∧ t.rbLines = s.rbLines ∧ t.rbY = rbResult s.rbLines ∧
        t.rbEq = rbEqOf s.rbLines.w s.rbLines.a s.rbLines.b ∧
        (Completes (step t) fun u =>
          u.outWord = decodePort g ∧ u.outValid = outValidOf (decodePort g) ∧ u.freeCount = t.freeCount) ∧
        (∀ r : RbLines, Completes (step (t.presentFirst (stableSelect r))) fun u =>
          u.outWord = decodePort g ∧ u.outValid = outValidOf (decodePort g) ∧ u.rbY = rbResult r)) ∧
    (∀ r : RbLines, ∀ q : Request, q = .select r ∨ q = .equality r →
      Completes (step (s.presentFirst { request := q, stable := false })) fun t =>
        t.rbY = Config.anyRbY s.freeCount ∧ t.rbEq = Config.anyRbEq s.freeCount ∧
        t.freeCount = s.freeCount + 1 ∧ t.rbLines = r ∧ t.inLines = s.inLines ∧
        t.outWord = decodePort s.inLines ∧ t.outValid = outValidOf (decodePort s.inLines) ∧
        (Completes (step t) fun u =>
          u.rbY = rbResult r ∧ u.rbEq = rbEqOf r.w r.a r.b ∧ u.freeCount = t.freeCount) ∧
        (∀ g : InLines, Completes (step (t.presentFirst (stableDecode g))) fun u =>
          u.rbY = rbResult r ∧ u.rbEq = rbEqOf r.w r.a r.b ∧ u.outWord = decodePort g))

/-! ## Encodings -/

/-- A few words written out bit by bit from the spec's encodings decode to the operations they stand for (R44, R53). -/
def Obligations.WrittenOutWordsDecode : Prop :=
  decodeTableWord 32 0b11_1001_0001_00111100_01000000 = some (.noteOn 1#1 0x1#4 0x3C#8 0x40#8) ∧
  decodeTableWord 32 0b11_1011_0000_01111011_00000000 = some (.controlChange 1#1 0x0#4 0x7B#8 0x00#8) ∧
  decodeTableWord 32 0b10_11110110_00000000_00000000 = some (.tuneRequest 0#1 0x00#8 0x00#8) ∧
  decodeTableWord 32 0b01_1001_0000_00000000_00000000 = some (.fail 1#2 0x90#8 0x00#8 0x00#8) ∧
  decodeTableWord 8 0b111 = some (.rbXor3 0x00#8 0x00#8) ∧
  decodeTableWord 32 0b100_1001_0001_0011_1100_0100_0000 = none ∧ decodeTableWord 8 0b1000 = none

/-- Decoding the encoding of a well-formed operation gives it back, for every operand value of every one of the 25
constructors. -/
def Obligations.DecodeInvertsEncode : Prop := ∀ i : Instr, i.wf = true → decode (encode i) = i

/-- Every presentation decodes to a well-formed operation whose encoding is that presentation: no line is dropped and
no two presentations are confused. -/
def Obligations.EncodeInvertsDecode : Prop := ∀ r : Request, (decode r).wf = true ∧ encode (decode r) = r

/-- A word of the table, as a number, presented as the next instruction, makes the next step run exactly the operation
the lines it stands for decode to, and `decodeTableWord` answers that operation (R44, R53; the way a word reaches the
lines is the model's own, log entries 1 and 9). -/
def Obligations.TableWordRunsItsOperation : Prop :=
  ∀ s : State,
    (∀ g : InLines,
      decodeTableWord 32 g.word.toNat = some (decode (.decode g)) ∧
      step (s.withFetchWord 32 g.word.toNat) = exec (decode (.decode g)) (s.present (.decode g))) ∧
    (∀ (w : Bit) (op : BitVec 2),
      decodeTableWord 8 (w ++ op).toNat = some (decodeSelect { w := w, op := op, a := 0#8, b := 0#8 }) ∧
      step (s.withFetchWord 8 (w ++ op).toNat) =
        exec (decodeSelect { w := w, op := op, a := 0#8, b := 0#8 })
          (s.present (.select { w := w, op := op, a := 0#8, b := 0#8 })))

/-- A number with a bit above the 26-bit input word, or above the 3-bit select, is refused by name; every other number
is decoded (the model's own, log entry 9). -/
def Obligations.TableWordsAreRefusedExactlyWhenTooWide : Prop :=
  ∀ w : Nat,
    (requestOfTableWord 32 w = .error .inWordTooWide ↔ 2 ^ 26 ≤ w) ∧
    (requestOfTableWord 8 w = .error .selectTooWide ↔ 8 ≤ w) ∧
    (decodeTableWord 32 w = none ↔ 2 ^ 26 ≤ w) ∧ (decodeTableWord 8 w = none ↔ 8 ≤ w)

/-- The match/mask rows of the opcode table and the classifier pick the same category for every input word (R44, R71):
two readings of the classification table agree; and the category is a channel-voice one exactly when the top nibble of
the status byte is not 0xF (R73). -/
def Obligations.OpcodeTableAgreesWithClassifier : Prop :=
  ∀ w : InWord,
    (categoryOfWord w = if w.extractLsb' 25 1 = 1#1 then classify (w.extractLsb' 16 8) else none) ∧
    (∀ cat, categoryOfWord w = some cat → (isChannelVoice cat = true ↔ w.extractLsb' 20 4 ≠ 0xF#4))

/-- No input word matches two rows, so the order of the rows does not matter (R71). -/
def Obligations.OpcodeRowsAreDisjoint : Prop :=
  ∀ w : InWord, ∀ r ∈ inTable, ∀ r' ∈ inTable, r.accepts w = true → r'.accepts w = true → r = r'

/-- Each class of status bytes of R43 gives the tag of R49 on a group of two or more bytes, and the unrecognized bytes
give the `None` word; the tag codes are D5, the spec's own decision. -/
def Obligations.StatusByteSelectsTheTag : Prop :=
  ∀ (s t : State) (g : InLines), 2#2 ≤ g.len → step (s.presentFirst (stableDecode g)) = .next t →
    (g.b0 < 0x80#8 → t.outWord = 0x000000#24) ∧
    (0x80#8 ≤ g.b0 → g.b0 < 0xF0#8 →
      (t.outWord.extractLsb' 20 4).toNat = (g.b0.extractLsb' 4 4).toNat - 7 ∧
      t.outWord.extractLsb' 16 4 = g.b0.extractLsb' 0 4) ∧
    (g.b0 ∈ [0xF0#8, 0xF1#8, 0xF2#8, 0xF3#8, 0xF4#8, 0xF5#8, 0xF7#8, 0xF9#8, 0xFD#8] → t.outWord = 0x000000#24) ∧
    (g.b0 = 0xF6#8 → t.outWord.extractLsb' 20 4 = 0x8#4) ∧
    (g.b0 = 0xF8#8 → t.outWord.extractLsb' 20 4 = 0x9#4) ∧
    (g.b0 = 0xFA#8 → t.outWord.extractLsb' 20 4 = 0xA#4) ∧
    (g.b0 = 0xFB#8 → t.outWord.extractLsb' 20 4 = 0xC#4) ∧
    (g.b0 = 0xFC#8 → t.outWord.extractLsb' 20 4 = 0xB#4) ∧
    (g.b0 = 0xFE#8 → t.outWord.extractLsb' 20 4 = 0xD#4) ∧
    (g.b0 = 0xFF#8 → t.outWord.extractLsb' 20 4 = 0xE#4)

/-! ## The decoder -/

/-- The machine, which decodes through the opcode table and encodes through PACK, drives the word that the port form
DECODE of R92 gives, for every value of the lines and from every state. The RB input lines stay and the RB outputs are the
functions of them (R22, D8, R55; log entry 3), unchanged if they were so before; what the producer has still to present is
unchanged (log entry 1). -/
def Obligations.StepComputesDecode : Prop :=
  ∀ (s : State) (g : InLines),
    Completes (step (s.presentFirst (stableDecode g))) fun t =>
      t.outWord = decodePort g ∧ t.outValid = (if (decodePort g).extractLsb' 20 4 ≠ 0x0#4 then 1#1 else 0#1) ∧
      t.inLines = g ∧ t.rbLines = s.rbLines ∧ t.rbY = rbResult s.rbLines ∧
      t.rbEq = rbEqOf s.rbLines.w s.rbLines.a s.rbLines.b ∧
      (LinesSettled s → t.rbY = s.rbY ∧ t.rbEq = s.rbEq) ∧ t.pending = s.pending

/-- DECODE of the port form of a byte sequence is PACK of the sequence's decode, whatever the lines of absent bytes
carry (R93). -/
def Obligations.PortFormDecodesAsTheByteSequence : Prop :=
  ∀ (fill : InLines) (bytes : List Byte), decodePort (portForm fill bytes) = pack (decodeGroup bytes)

/-- The length is significant in exactly three ways: fewer than two bytes fail; two bytes decode as if the third were an
explicit 0; three or more decode as the first three (R29). The last two clauses say what data2 is, on every category whose
word shows it (F2 of NoteOff, NoteOn, PolyphonicAftertouch, ControlChange and PitchBend): 0 in a two-byte group, the third
byte in a longer one. That F2 holds data2 is R46 with R48 (the place of F2: D4), for NoteOff and PolyphonicAftertouch by
D7; D4 and D7 are the spec's own decisions. -/
def Obligations.LengthMattersInThreeWays : Prop :=
  ∀ (s : State) (fill : InLines),
    (∀ bytes : List Byte, bytes.length < 2 →
      Completes (stepOnGroup s fill bytes) fun t => t.outWord = 0x000000#24) ∧
    (∀ b0 d1 : Byte, ∀ t u : State, stepOnGroup s fill [b0, d1] = .next t →
      stepOnGroup s fill [b0, d1, 0x00#8] = .next u → t.outWord = u.outWord) ∧
    (∀ (b0 d1 d2 : Byte) (rest : List Byte), ∀ t u : State,
      stepOnGroup s fill (b0 :: d1 :: d2 :: rest) = .next t → stepOnGroup s fill [b0, d1, d2] = .next u →
      t.outWord = u.outWord) ∧
    (∀ n ∈ [0x8#4, 0x9#4, 0xA#4, 0xB#4, 0xE#4], ∀ (c : Nibble) (d1 : Byte),
      Completes (stepOnGroup s fill [n ++ c, d1]) fun t => t.outWord.extractLsb' 0 8 = 0x00#8) ∧
    (∀ n ∈ [0x8#4, 0x9#4, 0xA#4, 0xB#4, 0xE#4], ∀ (c : Nibble) (d1 d2 : Byte) (rest : List Byte),
      Completes (stepOnGroup s fill ((n ++ c) :: d1 :: d2 :: rest)) fun t => t.outWord.extractLsb' 0 8 = d2)

/-- What a line carries for an absent byte never reaches the output (R28, I4): two sets of lines that agree on the bytes
present decode alike. -/
def Obligations.AbsentByteLinesAreNeverRead : Prop :=
  ∀ (s t t' : State) (g g' : InLines), g'.len = g.len → (1#2 ≤ g.len → g'.b0 = g.b0) →
    (2#2 ≤ g.len → g'.b1 = g.b1) → (g.len = 3#2 → g'.b2 = g.b2) →
    step (s.presentFirst (stableDecode g)) = .next t → step (s.presentFirst (stableDecode g')) = .next t' →
    t'.outWord = t.outWord ∧ t'.outValid = t.outValid

/-- The producer's lapses have the results the rules give: a group that starts with a data byte and a system byte alone
give the `None` word; bytes after the first three are lost, and a NoteOn cut to two bytes has velocity 0 (R113 to
R115). -/
def Obligations.ProducerLapsesAreSilent : Prop :=
  ∀ (s : State) (fill : InLines),
    (∀ (b0 : Byte) (rest : List Byte), b0 < 0x80#8 →
      Completes (stepOnGroup s fill (b0 :: rest)) fun t => t.outWord = 0x000000#24 ∧ t.outValid = 0#1) ∧
    (∀ b0 : Byte, Completes (stepOnGroup s fill [b0]) fun t => t.outWord = 0x000000#24 ∧ t.outValid = 0#1) ∧
    (∀ (c : Nibble) (d1 d2 : Byte) (later : List Byte),
      Completes (stepOnGroup s fill ((0x9#4 ++ c) :: d1 :: d2 :: later)) fun t =>
        t.outWord = packMessage (.noteOn c d1 d2)) ∧
    (∀ (c : Nibble) (d1 : Byte),
      Completes (stepOnGroup s fill [0x9#4 ++ c, d1]) fun t => t.outWord = packMessage (.noteOn c d1 0x00#8))

/-- NoteOn and PitchBend pass both data bytes raw, data2 being 0 in a two-byte group; NoteOn with velocity 0 stays
NoteOn (R75, R77, R82). -/
def Obligations.NoteOnAndPitchBendPassBothBytes : Prop :=
  Slice0.VoiceRow .noteOn 0x9#4 0x2#4 id id ∧ Slice0.VoiceRow .pitchBend 0xE#4 0x7#4 id id

/-- NoteOff and PolyphonicAftertouch pass both data bytes raw (R76, R78); which byte feeds which field is D7, the spec's
own decision. -/
def Obligations.NoteOffAndPolyAftertouchPassBothBytes : Prop :=
  Slice0.VoiceRow .noteOff 0x8#4 0x1#4 id id ∧ Slice0.VoiceRow .polyAftertouch 0xA#4 0x3#4 id id

/-- ControlChange truncates data1 to its low 7 bits and passes data2 raw (R79). -/
def Obligations.ControlChangeTruncatesOnlyItsControl : Prop :=
  Slice0.VoiceRow .controlChange 0xB#4 0x4#4 (fun p => (p.extractLsb' 0 7).setWidth 8) id

/-- ProgramChange and ChannelAftertouch pass data1 raw and ignore data2 (R80, R81); that their field comes from data1 is
D7, the spec's own decision. -/
def Obligations.ProgramChangeAndChannelAftertouchIgnoreData2 : Prop :=
  Slice0.VoiceRow .programChange 0xC#4 0x5#4 id (fun _ => 0x00#8) ∧
  Slice0.VoiceRow .channelAftertouch 0xD#4 0x6#4 id (fun _ => 0x00#8)

/-- Each system byte, with at least one byte after it, gives its one word whatever follows, and alone gives the `None`
word (R83 to R90). SystemReset resets nothing: its frame is that of the others. -/
def Obligations.SystemBytesGiveTheirSingletons : Prop :=
  Slice0.SystemRow .tuneRequest 0xF6#8 0x800000#24 ∧ Slice0.SystemRow .timingClock 0xF8#8 0x900000#24 ∧
  Slice0.SystemRow .start 0xFA#8 0xA00000#24 ∧ Slice0.SystemRow .midiContinue 0xFB#8 0xC00000#24 ∧
  Slice0.SystemRow .stop 0xFC#8 0xB00000#24 ∧ Slice0.SystemRow .activeSensing 0xFE#8 0xD00000#24 ∧
  Slice0.SystemRow .systemReset 0xFF#8 0xE00000#24

/-- The failure outcome: the lines decode to DECODE.FAIL exactly when the group is too short or its status byte is
unrecognized, and the operation then drives the `None` word and nothing else (R91). -/
def Obligations.FailureDrivesTheNoneWordOnly : Prop :=
  (∀ g : InLines, decode (.decode g) = .fail g.len g.b0 g.b1 g.b2 ↔ (g.len < 2#2 ∨ classify g.b0 = none)) ∧
  (∀ (s : State) (len : BitVec 2) (st p q : Byte),
    Completes (exec (.fail len st p q) s) fun u =>
      u.outWord = 0x000000#24 ∧ u.outValid = 0#1 ∧ DecodeFrame s u)

/-! ## The tagged message encoder -/

/-- UNPACK of PACK is the value itself, so PACK is injective (R96). -/
def Obligations.UnpackInvertsPack : Prop :=
  (∀ m : Option Message, unpack (pack m) = .ok m) ∧ (∀ m n : Option Message, pack m = pack n → m = n)

/-- Every word UNPACK accepts is the PACK of what it reads: no bit of the word is dropped (R95). -/
def Obligations.PackInvertsUnpack : Prop :=
  ∀ (w : OutWord) (m : Option Message), unpack w = .ok m → pack m = w

/-- UNPACK refuses exactly the words the block never drives (R52, R95, D18). -/
def Obligations.UnpackRefusesExactlyUndrivenWords : Prop :=
  ∀ w : OutWord, neverDriven w = true ↔ ∃ r, unpack w = .error r

/-- After a stable decode the word is one the block may drive, it unpacks to the decode of the group, and `out_valid` is
1 exactly for a message (R52, R94, R96). -/
def Obligations.DrivenWordIsThePackedDecode : Prop :=
  ∀ (s : State) (fill : InLines) (bytes : List Byte),
    Completes (stepOnGroup s fill bytes) fun t =>
      neverDriven t.outWord = false ∧ unpack t.outWord = .ok (decodeGroup bytes) ∧
      (t.outValid = 1#1 ↔ (decodeGroup bytes).isSome = true)

/-- AllNotesOff is one value of ControlChange, packed 0x407B00 (R97); and the groups that decode to it are exactly those
with status 0xB0, a data1 whose low 7 bits are 123, and a data2 that is 0 or absent, which follows from R79, R93 and
R29. -/
def Obligations.AllNotesOffIsOneControlChange : Prop :=
  allNotesOff = .controlChange 0x0#4 123#7 0x00#8 ∧ packMessage allNotesOff = 0x407B00#24 ∧
  ∀ bytes : List Byte, decodeGroup bytes = some allNotesOff ↔
    ∃ d1 rest, bytes = 0xB0#8 :: d1 :: rest ∧ d1.extractLsb' 0 7 = 123#7 ∧ rest.headD 0x00#8 = 0x00#8

/-- Every message is the decode of its test-harness serialization (95_test_vectors.md section 7.3; derived by the spec,
no port of the block, R98), so every one of the 14 variants is reached. -/
def Obligations.DecodeInvertsTheHarnessSerializer : Prop := ∀ m : Message, decodeGroup (ser m) = some m

/-! ## The restricted-byte unit -/

/-- RB.MAKE7, AND7, OR7, XOR7 (R56, R58, R59, R60; the select lines are D8). -/
def Obligations.SevenBitSelectsTruncate : Prop :=
  Slice0.Select7Row .rbMake7 0b00#2 (fun a _ => a) ∧ Slice0.Select7Row .rbAnd7 0b01#2 (· &&& ·) ∧
  Slice0.Select7Row .rbOr7 0b10#2 (· ||| ·) ∧ Slice0.Select7Row .rbXor7 0b11#2 (· ^^^ ·)

/-- RB.MAKE3, AND3, OR3, XOR3 (R57, R61, R62, R63; the select lines are D8). -/
def Obligations.ThreeBitSelectsTruncate : Prop :=
  Slice0.Select3Row .rbMake3 0b00#2 (fun a _ => a) ∧ Slice0.Select3Row .rbAnd3 0b01#2 (· &&& ·) ∧
  Slice0.Select3Row .rbOr3 0b10#2 (· ||| ·) ∧ Slice0.Select3Row .rbXor3 0b11#2 (· ^^^ ·)

/-- RB.EQ7 and RB.EQ3 compare the truncated operands, for any `rb_op`, and write `rb_eq` only (R64, R65). -/
def Obligations.EqualityComparesTruncatedOperands : Prop :=
  ∀ (s : State) (op : BitVec 2) (a b : Byte),
    (decode (.equality { w := 0#1, op := op, a := a, b := b }) = .rbEq7 op a b ∧
      Completes (exec (.rbEq7 op a b) s) fun u =>
        u.rbEq = (if a.extractLsb' 0 7 = b.extractLsb' 0 7 then 1#1 else 0#1) ∧ EqualityFrame s u) ∧
    (decode (.equality { w := 1#1, op := op, a := a, b := b }) = .rbEq3 op a b ∧
      Completes (exec (.rbEq3 op a b) s) fun u =>
        u.rbEq = (if a.extractLsb' 0 3 = b.extractLsb' 0 3 then 1#1 else 0#1) ∧ EqualityFrame s u)

/-- On the same lines the select and the equality operation leave the same outputs: the unit drives `rb_y` and `rb_eq`
in parallel, each a function of the lines (R53, R55, D8). That the model runs them as two requests is its own choice
(log entries 5 and 6). -/
def Obligations.SelectAndEqualityShareTheirLines : Prop :=
  ∀ (s : State) (r : RbLines),
    Completes (step (s.presentFirst (stableSelect r))) fun t =>
      Completes (step (s.presentFirst (stableEquality r))) fun u =>
        t.rbY = rbResult r ∧ u.rbY = t.rbY ∧ t.rbEq = rbEqOf r.w r.a r.b ∧ u.rbEq = t.rbEq ∧ u.rbLines = t.rbLines

/-- Every restricted-byte step leaves `rb_y` in the domain RestrictedByte(N) of the width on `rb_w`: below 2^N (R25,
R67). -/
def Obligations.RestrictedResultsStayInTheirDomain : Prop :=
  ∀ (s t : State) (r : RbLines),
    (step (s.presentFirst (stableSelect r)) = .next t ∨ step (s.presentFirst (stableEquality r)) = .next t) →
    inRestrictedDomain r.w t.rbY = true ∧ t.rbY.toNat < 2 ^ rbWidth r.w

/-- Truncating the operands first changes no result, whichever operation is selected; truncation is idempotent; and
truncating to 3 bits after 7 is truncating to 3 bits (R67). -/
def Obligations.TruncationCommutesWithEverySelect : Prop :=
  ∀ (r : RbLines),
    rbResult { r with a := rbMake r.w r.a, b := rbMake r.w r.b } = rbResult r ∧
    rbEqOf r.w (rbMake r.w r.a) (rbMake r.w r.b) = rbEqOf r.w r.a r.b ∧
    rbAssign r.w (rbValue (rbResult r)) = rbResult r ∧
    rbMake 1#1 (rbMake 0#1 r.a) = rbMake 1#1 r.a
end

