-- ==== Sys2Proof/Laws/Decode.lean ====
section
/-! SUPPORT. What decoding an input word rests on: only `IN[25:16]` selects a row, and over those ten bits the rows and
the classifier are compared by computation. -/

namespace Sys2Proof

open Machine

/-- A mask with no bit below 16 sees only the ten upper bits of an input word. -/
theorem and_highMask (mask : BitVec (10 + 16)) (hm : mask.setWidth 16 = 0#16) (h : BitVec 10) (lo : BitVec 16) :
    (h ++ lo) &&& mask = (h ++ 0#16) &&& mask := by
  apply BitVec.eq_of_getLsbD_eq
  intro i _
  by_cases hl : i < 16
  · have : mask.getLsbD i = false := by
      have := congrArg (fun v : BitVec 16 => v.getLsbD i) hm
      simpa [hl] using this
    simp [this]
  · simp only [BitVec.getLsbD_and, BitVec.getLsbD_append, hl, if_false]

theorem inTable_masks_high : ∀ r ∈ inTable, r.mask.setWidth 16 = 0#16 := by decide

theorem accepts_high {r : InRow} (hr : r ∈ inTable) (h : BitVec 10) (lo : BitVec 16) :
    r.accepts (h ++ lo) = r.accepts (h ++ 0#16) :=
  congrArg (· == r.pattern) (and_highMask r.mask (inTable_masks_high r hr) h lo)

theorem find?_congr_on {α : Type} {l : List α} {f g : α → Bool} (h : ∀ a ∈ l, f a = g a) : l.find? f = l.find? g := by
  induction l with
  | nil => rfl
  | cons a l ih => simp only [List.find?_cons, h a (by simp), ih fun b hb => h b (by simp [hb])]

/-- The data bytes select no row. -/
theorem categoryOfWord_high (h : BitVec 10) (lo : BitVec 16) :
    categoryOfWord (h ++ lo) = categoryOfWord (h ++ 0#16) := by
  unfold categoryOfWord
  rw [find?_congr_on fun r hr => accepts_high hr h lo]

set_option maxRecDepth 100000 in
/-- The rows and the classifier, over all 1024 values of `IN[25:16]`. -/
theorem categoryOfWord_head : ∀ h : BitVec 10,
    categoryOfWord (h ++ 0#16) = if h.extractLsb' 9 1 = 1#1 then classify (h.extractLsb' 0 8) else none := by
  decide

/-- The packed input word as its ten selecting bits and its data bytes. -/
theorem InLines.word_eq (g : InLines) : g.word = ((g.len ++ g.b0 : BitVec 10) ++ (g.b1 ++ g.b2 : BitVec 16) : InWord) := by
  apply BitVec.eq_of_getLsbD_eq
  intro i hi
  simp only [InLines.word, BitVec.getLsbD_append]
  interval_cases i <;> simp

/-- Every field of the packed input word is the line it was packed from (R44). -/
theorem InLines.word_fields (g : InLines) :
    g.word.extractLsb' 24 2 = g.len ∧ g.word.extractLsb' 24 1 = g.len.extractLsb' 0 1 ∧
    g.word.extractLsb' 25 1 = g.len.extractLsb' 1 1 ∧ g.word.extractLsb' 16 8 = g.b0 ∧
    g.word.extractLsb' 16 4 = channelOf g.b0 ∧ g.word.extractLsb' 8 8 = g.b1 ∧ g.word.extractLsb' 0 8 = g.b2 := by
  refine ⟨?_, ?_, ?_, ?_, ?_, ?_, ?_⟩ <;>
    (apply BitVec.eq_of_getLsbD_eq
     intro i hi
     simp only [channelOf, InLines.word, BitVec.getLsbD_extractLsb', BitVec.getLsbD_append]
     interval_cases i <;> simp)

/-- The lines of a packed word are the lines it was packed from. -/
theorem InLines.ofWord_word (g : InLines) : InLines.ofWord g.word = g := by
  obtain ⟨h1, _, _, h4, _, h6, h7⟩ := g.word_fields
  simp only [InLines.ofWord, h1, h4, h6, h7]

/-- The two nibbles of a status byte are read back (R42). -/
theorem status_fields (t c : Nibble) : channelOf (t ++ c) = c ∧ statusNibble (t ++ c) = t := by
  constructor <;>
    (apply BitVec.eq_of_getLsbD_eq
     intro i hi
     simp only [channelOf, statusNibble, BitVec.getLsbD_extractLsb', BitVec.getLsbD_append]
     interval_cases i <;> simp)

end Sys2Proof
end

