-- ==== Sys2Proof/Laws/State.lean ====
section
/-! SUPPORT. One lemma per field per update of the state, so that no later proof unfolds a record update. -/

namespace Sys2Proof.Machine

variable (s : State) (w : OutWord) (m : Option Message) (b : Bit) (y x z : Byte) (g : InLines) (r : RbLines)
  (p : Presentation) (ps : List Presentation)

/-! ### Driving `out_word` and `out_valid` -/

@[simp] theorem State.driveOut_outWord : (s.driveOut w).outWord = w := rfl
@[simp] theorem State.driveOut_outValid : (s.driveOut w).outValid = outValidOf w := rfl
@[simp] theorem State.driveOut_inLines : (s.driveOut w).inLines = s.inLines := rfl
@[simp] theorem State.driveOut_rbLines : (s.driveOut w).rbLines = s.rbLines := rfl
@[simp] theorem State.driveOut_rbY : (s.driveOut w).rbY = s.rbY := rfl
@[simp] theorem State.driveOut_rbEq : (s.driveOut w).rbEq = s.rbEq := rfl
@[simp] theorem State.driveOut_port : (s.driveOut w).port = s.port := rfl
@[simp] theorem State.driveOut_pending : (s.driveOut w).pending = s.pending := rfl
@[simp] theorem State.driveOut_freeCount : (s.driveOut w).freeCount = s.freeCount := rfl

@[simp] theorem State.driveMessage_eq : s.driveMessage m = s.driveOut (pack m) := rfl

/-! ### Driving `rb_y` and `rb_eq` -/

@[simp] theorem State.driveSelect_rbY : (s.driveSelect b y x z).rbY = y := rfl
@[simp] theorem State.driveSelect_rbEq : (s.driveSelect b y x z).rbEq = rbEqOf b x z := rfl
@[simp] theorem State.driveSelect_inLines : (s.driveSelect b y x z).inLines = s.inLines := rfl
@[simp] theorem State.driveSelect_outWord : (s.driveSelect b y x z).outWord = s.outWord := rfl
@[simp] theorem State.driveSelect_outValid : (s.driveSelect b y x z).outValid = s.outValid := rfl
@[simp] theorem State.driveSelect_rbLines : (s.driveSelect b y x z).rbLines = s.rbLines := rfl
@[simp] theorem State.driveSelect_port : (s.driveSelect b y x z).port = s.port := rfl
@[simp] theorem State.driveSelect_pending : (s.driveSelect b y x z).pending = s.pending := rfl
@[simp] theorem State.driveSelect_freeCount : (s.driveSelect b y x z).freeCount = s.freeCount := rfl

@[simp] theorem State.driveEquality_rbEq : (s.driveEquality b x z).rbEq = rbEqOf b x z := rfl
@[simp] theorem State.driveEquality_rbY : (s.driveEquality b x z).rbY = s.rbY := rfl
@[simp] theorem State.driveEquality_inLines : (s.driveEquality b x z).inLines = s.inLines := rfl
@[simp] theorem State.driveEquality_outWord : (s.driveEquality b x z).outWord = s.outWord := rfl
@[simp] theorem State.driveEquality_outValid : (s.driveEquality b x z).outValid = s.outValid := rfl
@[simp] theorem State.driveEquality_rbLines : (s.driveEquality b x z).rbLines = s.rbLines := rfl
@[simp] theorem State.driveEquality_port : (s.driveEquality b x z).port = s.port := rfl
@[simp] theorem State.driveEquality_pending : (s.driveEquality b x z).pending = s.pending := rfl
@[simp] theorem State.driveEquality_freeCount : (s.driveEquality b x z).freeCount = s.freeCount := rfl

/-! ### Presenting an operation -/

@[simp] theorem State.settleDecode_eq : s.settleDecode = s.driveOut (decodePort s.inLines) := rfl
@[simp] theorem State.settleRb_eq :
    s.settleRb = s.driveSelect s.rbLines.w (rbResult s.rbLines) s.rbLines.a s.rbLines.b := rfl

@[simp] theorem State.present_decode_inLines : (s.present (.decode g)).inLines = g := rfl
@[simp] theorem State.present_decode_outWord : (s.present (.decode g)).outWord = s.outWord := rfl
@[simp] theorem State.present_decode_outValid : (s.present (.decode g)).outValid = s.outValid := rfl
@[simp] theorem State.present_decode_rbLines : (s.present (.decode g)).rbLines = s.rbLines := rfl
@[simp] theorem State.present_decode_rbY : (s.present (.decode g)).rbY = rbResult s.rbLines := rfl
@[simp] theorem State.present_decode_rbEq :
    (s.present (.decode g)).rbEq = rbEqOf s.rbLines.w s.rbLines.a s.rbLines.b := rfl
@[simp] theorem State.present_decode_port : (s.present (.decode g)).port = .decode := rfl

@[simp] theorem State.present_select_inLines : (s.present (.select r)).inLines = s.inLines := rfl
@[simp] theorem State.present_select_outWord : (s.present (.select r)).outWord = decodePort s.inLines := rfl
@[simp] theorem State.present_select_outValid :
    (s.present (.select r)).outValid = outValidOf (decodePort s.inLines) := rfl
@[simp] theorem State.present_select_rbLines : (s.present (.select r)).rbLines = r := rfl
@[simp] theorem State.present_select_rbY : (s.present (.select r)).rbY = s.rbY := rfl
@[simp] theorem State.present_select_rbEq : (s.present (.select r)).rbEq = s.rbEq := rfl
@[simp] theorem State.present_select_port : (s.present (.select r)).port = .rbSelect := rfl

@[simp] theorem State.present_equality_inLines : (s.present (.equality r)).inLines = s.inLines := rfl
@[simp] theorem State.present_equality_outWord : (s.present (.equality r)).outWord = decodePort s.inLines := rfl
@[simp] theorem State.present_equality_outValid :
    (s.present (.equality r)).outValid = outValidOf (decodePort s.inLines) := rfl
@[simp] theorem State.present_equality_rbLines : (s.present (.equality r)).rbLines = r := rfl
@[simp] theorem State.present_equality_rbY : (s.present (.equality r)).rbY = rbResult r := rfl
@[simp] theorem State.present_equality_rbEq : (s.present (.equality r)).rbEq = s.rbEq := rfl
@[simp] theorem State.present_equality_port : (s.present (.equality r)).port = .rbEquality := rfl

@[simp] theorem State.present_pending (q : Request) : (s.present q).pending = s.pending := by cases q <;> rfl
@[simp] theorem State.present_freeCount (q : Request) : (s.present q).freeCount = s.freeCount := by cases q <;> rfl
@[simp] theorem State.presentFirst_pending : (s.presentFirst p).pending = p :: s.pending := rfl

theorem State.nextPresentation_of_cons (h : s.pending = p :: ps) : s.nextPresentation = p := by
  simp [State.nextPresentation, h]

theorem State.nextPresentation_of_nil (h : s.pending = []) :
    s.nextPresentation = { request := s.heldRequest, stable := true } := by
  simp [State.nextPresentation, h]

theorem State.afterPresentation_of_cons (h : s.pending = p :: ps) :
    s.afterPresentation = ({ s with pending := ps } : State).present p.request := by
  simp [State.afterPresentation, State.nextPresentation_of_cons s p ps h, h]

theorem State.afterPresentation_of_nil (h : s.pending = []) :
    s.afterPresentation = s.present s.heldRequest := by
  have : ({ s with pending := s.pending.tail } : State) = s := by
    cases s
    simp_all
  simp only [State.afterPresentation, State.nextPresentation_of_nil s h, this]

/-! ### Sampling -/

@[simp] theorem sampleResult_stable (q : Request) (o : Result) :
    sampleResult { request := q, stable := true } o = o := by
  cases o <;> rfl

theorem sampleResult_of_stable {p : Presentation} (h : p.stable = true) (o : Result) : sampleResult p o = o := by
  cases o <;> simp [sampleResult, State.sampled, h]

@[simp] theorem sampleResult_next (t : State) : sampleResult p (.next t) = .next (t.sampled p) := rfl

end Sys2Proof.Machine
end

