-- ==== Sys2Proof/Laws/Exec.lean ====
section
/-! SUPPORT. What one operation does, said once: the shared operations answer a next state, and a presented operation is
the one the step runs. -/

namespace Sys2Proof.Machine

/-- Every meaning answers a next state (R51, R68). -/
theorem exec_completes (i : Instr) (s : State) : ∃ t, exec i s = .next t := by
  cases i <;> exact ⟨_, rfl⟩

/-- The decode meanings all drive PACK of the message of their category (R94). -/
theorem exec_ofCategory (l : Bit) (c : Nibble) (p q : Byte) (cat : Category) (s : State) :
    exec (Instr.ofCategory l c p q cat) s = .next (s.driveMessage (some (messageOf c p (data2 l q) cat))) := by
  cases cat <;> rfl

/-- The select meanings all drive `rb_y` as the function of the lines, and `rb_eq` with it (R53, R55). -/
theorem exec_select (r : RbLines) (s : State) :
    exec (decode (.select r)) s = .next (s.driveSelect r.w (rbResult r) r.a r.b) := by
  obtain ⟨w, op, a, b⟩ := r
  have hw : w = 0#1 ∨ w = 1#1 := by revert w; decide
  have ho : op = 0#2 ∨ op = 1#2 ∨ op = 2#2 ∨ op = 3#2 := by revert op; decide
  rcases hw with rfl | rfl <;> rcases ho with rfl | rfl | rfl | rfl <;> rfl

/-- The equality meanings drive `rb_eq` alone (R64, R65). -/
theorem exec_equality (r : RbLines) (s : State) :
    exec (decode (.equality r)) s = .next (s.driveEquality r.w r.a r.b) := by
  obtain ⟨w, op, a, b⟩ := r
  have hw : w = 0#1 ∨ w = 1#1 := by revert w; decide
  rcases hw with rfl | rfl <;> rfl

/-- What is presented first is what the next step runs. -/
theorem step_presentFirst (s : State) (p : Presentation) :
    step (s.presentFirst p) = sampleResult p (exec (decode p.request) (s.present p.request)) := rfl

/-- The four fields of an output word are read back (R48). -/
theorem wordOf_fields (t c : Nibble) (f1 f2 : Byte) :
    (wordOf t c f1 f2).extractLsb' 20 4 = t ∧ (wordOf t c f1 f2).extractLsb' 16 4 = c ∧
    (wordOf t c f1 f2).extractLsb' 8 8 = f1 ∧ (wordOf t c f1 f2).extractLsb' 0 8 = f2 := by
  refine ⟨?_, ?_, ?_, ?_⟩ <;>
    (apply BitVec.eq_of_getLsbD_eq
     intro i hi
     simp only [wordOf, BitVec.getLsbD_extractLsb', BitVec.getLsbD_append]
     interval_cases i <;> simp)

end Sys2Proof.Machine
end

