-- ==== Sys2Proof/Laws/PerInstr.lean ====
section
/-! SUPPORT. For every operation: its encoding carries the fixed bits of its row of spec/opcode_table.json. -/

namespace Sys2Proof

open Machine

/-- The category an operation's IN26 row selects; `none` for the default row and for the RB rows. -/
def Instr.category? : Instr → Option Category
  | .noteOff _ _ _ _ => some .noteOff
  | .noteOn _ _ _ _ => some .noteOn
  | .polyAftertouch _ _ _ _ => some .polyphonicAftertouch
  | .controlChange _ _ _ _ => some .controlChange
  | .programChange _ _ _ _ => some .programChange
  | .channelAftertouch _ _ _ _ => some .channelAftertouch
  | .pitchBend _ _ _ _ => some .pitchBend
  | .tuneRequest _ _ _ => some .tuneRequest
  | .timingClock _ _ _ => some .timingClock
  | .start _ _ _ => some .start
  | .midiContinue _ _ _ => some .midiContinue
  | .stop _ _ _ => some .stop
  | .activeSensing _ _ _ => some .activeSensing
  | .systemReset _ _ _ => some .systemReset
  | .fail _ _ _ _ => none
  | .rbMake7 _ _ | .rbAnd7 _ _ | .rbOr7 _ _ | .rbXor7 _ _ | .rbMake3 _ _ | .rbAnd3 _ _ | .rbOr3 _ _
  | .rbXor3 _ _ | .rbEq7 _ _ _ | .rbEq3 _ _ _ => none

/-- Mask and match of an operation's RBSEL3 row; a mask of 0 stands for "no RBSEL3 row". -/
def Instr.rbRow : Instr → BitVec 3 × BitVec 3
  | .rbMake7 _ _ => (0b111#3, 0b000#3)
  | .rbAnd7 _ _ => (0b111#3, 0b001#3)
  | .rbOr7 _ _ => (0b111#3, 0b010#3)
  | .rbXor7 _ _ => (0b111#3, 0b011#3)
  | .rbMake3 _ _ => (0b111#3, 0b100#3)
  | .rbAnd3 _ _ => (0b111#3, 0b101#3)
  | .rbOr3 _ _ => (0b111#3, 0b110#3)
  | .rbXor3 _ _ => (0b111#3, 0b111#3)
  | .rbEq7 _ _ _ => (0b100#3, 0b000#3)
  | .rbEq3 _ _ _ => (0b100#3, 0b100#3)
  | .noteOff _ _ _ _ | .noteOn _ _ _ _ | .polyAftertouch _ _ _ _ | .controlChange _ _ _ _
  | .programChange _ _ _ _ | .channelAftertouch _ _ _ _ | .pitchBend _ _ _ _ => (0#3, 0#3)
  | .tuneRequest _ _ _ | .timingClock _ _ _ | .start _ _ _ | .midiContinue _ _ _ | .stop _ _ _
  | .activeSensing _ _ _ | .systemReset _ _ _ | .fail _ _ _ _ => (0#3, 0#3)

/-- The select bits of RB lines match a row. -/
def RbLines.matchesRow (r : RbLines) (row : BitVec 3 × BitVec 3) : Prop :=
  row.1 ≠ 0#3 ∧ (r.w ++ r.op : BitVec 3) &&& row.1 = row.2

/-- The lines of a well-formed operation carry the fixed bits of its own row. -/
def Laws.EncodesItsRow.Statement (i : Instr) : Prop :=
  i.wf = true →
    match encode i with
    | .decode g => categoryOfWord g.word = i.category?
    | .select r | .equality r => r.matchesRow i.rbRow

/-- The row of lines is the row of their ten selecting bits. -/
theorem categoryOfWord_lines (g : InLines) :
    categoryOfWord g.word = categoryOfWord ((g.len ++ g.b0 : BitVec 10) ++ 0#16) := by
  rw [g.word_eq, categoryOfWord_high]

/-- A channel-voice row, from its 32 selecting values. -/
theorem voice_category {t : Nibble} {cat : Category}
    (h : ∀ (l : Bit) (c : Nibble), categoryOfWord ((1#1 ++ l ++ (t ++ c) : BitVec 10) ++ 0#16) = some cat)
    (l : Bit) (c : Nibble) (p q : Byte) :
    categoryOfWord (InLines.word { len := 1#1 ++ l, b0 := t ++ c, b1 := p, b2 := q }) = some cat :=
  (categoryOfWord_lines _).trans (h l c)

/-- A system row, from its two selecting values. -/
theorem system_category {st : Byte} {cat : Category}
    (h : ∀ l : Bit, categoryOfWord ((1#1 ++ l ++ st : BitVec 10) ++ 0#16) = some cat) (l : Bit) (p q : Byte) :
    categoryOfWord (InLines.word { len := 1#1 ++ l, b0 := st, b1 := p, b2 := q }) = some cat :=
  (categoryOfWord_lines _).trans (h l)

theorem equality7_select : ∀ op : BitVec 2, (0#1 ++ op : BitVec 3) &&& 0b100#3 = 0b000#3 := by decide

theorem equality3_select : ∀ op : BitVec 2, (1#1 ++ op : BitVec 3) &&& 0b100#3 = 0b100#3 := by decide

namespace Laws.EncodesItsRow

theorem noteOff (l : Bit) (c : Nibble) (p q : Byte) : Statement (.noteOff l c p q) := fun _ =>
  voice_category (by decide) l c p q
theorem noteOn (l : Bit) (c : Nibble) (p q : Byte) : Statement (.noteOn l c p q) := fun _ =>
  voice_category (by decide) l c p q
theorem polyAftertouch (l : Bit) (c : Nibble) (p q : Byte) : Statement (.polyAftertouch l c p q) := fun _ =>
  voice_category (by decide) l c p q
theorem controlChange (l : Bit) (c : Nibble) (p q : Byte) : Statement (.controlChange l c p q) := fun _ =>
  voice_category (by decide) l c p q
theorem programChange (l : Bit) (c : Nibble) (p q : Byte) : Statement (.programChange l c p q) := fun _ =>
  voice_category (by decide) l c p q
theorem channelAftertouch (l : Bit) (c : Nibble) (p q : Byte) : Statement (.channelAftertouch l c p q) := fun _ =>
  voice_category (by decide) l c p q
theorem pitchBend (l : Bit) (c : Nibble) (p q : Byte) : Statement (.pitchBend l c p q) := fun _ =>
  voice_category (by decide) l c p q
theorem tuneRequest (l : Bit) (p q : Byte) : Statement (.tuneRequest l p q) := fun _ =>
  system_category (by decide) l p q
theorem timingClock (l : Bit) (p q : Byte) : Statement (.timingClock l p q) := fun _ =>
  system_category (by decide) l p q
theorem start (l : Bit) (p q : Byte) : Statement (.start l p q) := fun _ =>
  system_category (by decide) l p q
theorem midiContinue (l : Bit) (p q : Byte) : Statement (.midiContinue l p q) := fun _ =>
  system_category (by decide) l p q
theorem stop (l : Bit) (p q : Byte) : Statement (.stop l p q) := fun _ =>
  system_category (by decide) l p q
theorem activeSensing (l : Bit) (p q : Byte) : Statement (.activeSensing l p q) := fun _ =>
  system_category (by decide) l p q
theorem systemReset (l : Bit) (p q : Byte) : Statement (.systemReset l p q) := fun _ =>
  system_category (by decide) l p q

theorem fail (len : BitVec 2) (st p q : Byte) : Statement (.fail len st p q) := by
  intro h
  have hl : (len ++ st : BitVec 10).extractLsb' 9 1 = len.extractLsb' 1 1 := by
    apply BitVec.eq_of_getLsbD_eq
    intro i hi
    simp only [BitVec.getLsbD_extractLsb', BitVec.getLsbD_append]
    interval_cases i
    simp
  have hs : (len ++ st : BitVec 10).extractLsb' 0 8 = st := by
    apply BitVec.eq_of_getLsbD_eq
    intro i hi
    simp only [BitVec.getLsbD_extractLsb', BitVec.getLsbD_append]
    interval_cases i <;> simp
  refine (categoryOfWord_lines _).trans ?_
  rw [categoryOfWord_head]
  simp only [hl, hs, Instr.category?]
  simp only [Instr.wf, Bool.or_eq_true, decide_eq_true_eq, Option.isNone_iff_eq_none] at h
  rcases h with h | h <;> simp [h]

theorem rbMake7 (a b : Byte) : Statement (.rbMake7 a b) := fun _ => by simp [encode, RbLines.matchesRow, Instr.rbRow]
theorem rbAnd7 (a b : Byte) : Statement (.rbAnd7 a b) := fun _ => by simp [encode, RbLines.matchesRow, Instr.rbRow]
theorem rbOr7 (a b : Byte) : Statement (.rbOr7 a b) := fun _ => by simp [encode, RbLines.matchesRow, Instr.rbRow]
theorem rbXor7 (a b : Byte) : Statement (.rbXor7 a b) := fun _ => by simp [encode, RbLines.matchesRow, Instr.rbRow]
theorem rbMake3 (a b : Byte) : Statement (.rbMake3 a b) := fun _ => by simp [encode, RbLines.matchesRow, Instr.rbRow]
theorem rbAnd3 (a b : Byte) : Statement (.rbAnd3 a b) := fun _ => by simp [encode, RbLines.matchesRow, Instr.rbRow]
theorem rbOr3 (a b : Byte) : Statement (.rbOr3 a b) := fun _ => by simp [encode, RbLines.matchesRow, Instr.rbRow]
theorem rbXor3 (a b : Byte) : Statement (.rbXor3 a b) := fun _ => by simp [encode, RbLines.matchesRow, Instr.rbRow]
theorem rbEq7 (op : BitVec 2) (a b : Byte) : Statement (.rbEq7 op a b) := fun _ =>
  ⟨by simp [Instr.rbRow], equality7_select op⟩
theorem rbEq3 (op : BitVec 2) (a b : Byte) : Statement (.rbEq3 op a b) := fun _ =>
  ⟨by simp [Instr.rbRow], equality3_select op⟩

end Laws.EncodesItsRow

end Sys2Proof
end

