-- ==== Sys2Proof/Tests/Slice0.lean ====
section
/-! SUPPORT. The model's own tests: the well-formedness smoke test, one written-out word for every constructor, the
spec's vectors (95_test_vectors.md) run as one step, and for every statement with hypotheses a state that meets them. -/

open Sys2Proof Sys2Proof.Machine

namespace Sys2Proof.Tests

/-! ## Well-formedness: the one check is that the default row stands only for words no other row matches -/

theorem test_wf_refuses_fail_on_a_recognized_group : (Instr.fail 2#2 0x90#8 0#8 0#8).wf = false := by decide
theorem test_wf_accepts_fail_on_one_byte : (Instr.fail 1#2 0x90#8 0#8 0#8).wf = true := by decide
theorem test_wf_accepts_fail_on_unrecognized : (Instr.fail 3#2 0xF0#8 0#8 0#8).wf = true := by decide

/-! ## Every constructor's decoding, by a word written out from its row of the opcode table (R44, R53) -/

theorem test_decode_noteOff : decodeTableWord 32 0b11_1000_1111_11111111_10000000 =
    some (.noteOff 1#1 0xF#4 0xFF#8 0x80#8) := by decide
theorem test_decode_noteOn : decodeTableWord 32 0b11_1001_0001_00111100_01000000 =
    some (.noteOn 1#1 0x1#4 0x3C#8 0x40#8) := by decide
theorem test_decode_polyAftertouch : decodeTableWord 32 0b11_1010_0101_01000000_01111111 =
    some (.polyAftertouch 1#1 0x5#4 0x40#8 0x7F#8) := by decide
theorem test_decode_controlChange : decodeTableWord 32 0b11_1011_0011_11111011_11111111 =
    some (.controlChange 1#1 0x3#4 0xFB#8 0xFF#8) := by decide
theorem test_decode_programChange : decodeTableWord 32 0b10_1100_1001_00000101_00000000 =
    some (.programChange 0#1 0x9#4 0x05#8 0x00#8) := by decide
theorem test_decode_channelAftertouch : decodeTableWord 32 0b11_1101_1111_01100100_00000000 =
    some (.channelAftertouch 1#1 0xF#4 0x64#8 0x00#8) := by decide
theorem test_decode_pitchBend : decodeTableWord 32 0b11_1110_0000_00000000_01000000 =
    some (.pitchBend 1#1 0x0#4 0x00#8 0x40#8) := by decide
theorem test_decode_tuneRequest : decodeTableWord 32 0b11_11110110_11111111_11111111 =
    some (.tuneRequest 1#1 0xFF#8 0xFF#8) := by decide
theorem test_decode_timingClock : decodeTableWord 32 0b11_11111000_00000000_00000000 =
    some (.timingClock 1#1 0x00#8 0x00#8) := by decide
theorem test_decode_start : decodeTableWord 32 0b11_11111010_00010010_00110100 =
    some (.start 1#1 0x12#8 0x34#8) := by decide
theorem test_decode_midiContinue : decodeTableWord 32 0b10_11111011_00000000_00000000 =
    some (.midiContinue 0#1 0x00#8 0x00#8) := by decide
theorem test_decode_stop : decodeTableWord 32 0b10_11111100_00000000_00000000 =
    some (.stop 0#1 0x00#8 0x00#8) := by decide
theorem test_decode_activeSensing : decodeTableWord 32 0b11_11111110_11111110_11111110 =
    some (.activeSensing 1#1 0xFE#8 0xFE#8) := by decide
theorem test_decode_systemReset : decodeTableWord 32 0b11_11111111_10010000_00111100 =
    some (.systemReset 1#1 0x90#8 0x3C#8) := by decide
theorem test_decode_fail : decodeTableWord 32 0b01_11111000_00000000_00000000 =
    some (.fail 1#2 0xF8#8 0x00#8 0x00#8) := by decide
theorem test_decode_rbMake7 : decodeTableWord 8 0b000 = some (.rbMake7 0#8 0#8) := by decide
theorem test_decode_rbAnd7 : decodeTableWord 8 0b001 = some (.rbAnd7 0#8 0#8) := by decide
theorem test_decode_rbOr7 : decodeTableWord 8 0b010 = some (.rbOr7 0#8 0#8) := by decide
theorem test_decode_rbXor7 : decodeTableWord 8 0b011 = some (.rbXor7 0#8 0#8) := by decide
theorem test_decode_rbMake3 : decodeTableWord 8 0b100 = some (.rbMake3 0#8 0#8) := by decide
theorem test_decode_rbAnd3 : decodeTableWord 8 0b101 = some (.rbAnd3 0#8 0#8) := by decide
theorem test_decode_rbOr3 : decodeTableWord 8 0b110 = some (.rbOr3 0#8 0#8) := by decide
theorem test_decode_rbXor3 : decodeTableWord 8 0b111 = some (.rbXor3 0#8 0#8) := by decide
theorem test_decode_rbEq7 : decode (.equality ⟨0b0#1, 0b10#2, 0xFB#8, 0x7B#8⟩) =
    .rbEq7 0b10#2 0xFB#8 0x7B#8 := by decide
theorem test_decode_rbEq3 : decode (.equality ⟨0b1#1, 0b01#2, 0xFF#8, 0x07#8⟩) =
    .rbEq3 0b01#2 0xFF#8 0x07#8 := by decide
theorem test_decode_refuses_bit_26 : requestOfTableWord 32 0x4000000 = .error .inWordTooWide := by decide
theorem test_decode_refuses_select_bit_3 : requestOfTableWord 8 0b1000 = .error .selectTooWide := by decide

/-! ## One step on the spec's vectors (95_test_vectors.md sections 1 to 6) -/

/-- The output word and `out_valid` after one step on a packed input word, from reset. -/
def wordAfter (w : Nat) : Option (OutWord × Bit) :=
  match step (State.reset.withFetchWord 32 w) with
  | .next t => some (t.outWord, t.outValid)
  | .fault _ | .refused _ => none

/-- `rb_y` and `rb_eq` after one step on RB lines, from reset. -/
def rbAfter (w : Bit) (op : BitVec 2) (a b : Byte) : Option (Byte × Bit) :=
  match step (State.reset.presentFirst (stableSelect ⟨w, op, a, b⟩)) with
  | .next t => some (t.rbY, t.rbEq)
  | .fault _ | .refused _ => none

/-- `rb_y` and `rb_eq` after one equality step on RB lines, from reset. -/
def eqAfter (w : Bit) (op : BitVec 2) (a b : Byte) : Option (Byte × Bit) :=
  match step (State.reset.presentFirst (stableEquality ⟨w, op, a, b⟩)) with
  | .next t => some (t.rbY, t.rbEq)
  | .fault _ | .refused _ => none

theorem test_noteOff_two_bytes : wordAfter 0x2854000 = some (0x154000#24, 1#1) := by decide
theorem test_noteOff_raw_bytes : wordAfter 0x38FFF80 = some (0x1FFF80#24, 1#1) := by decide
theorem test_noteOn_source_example : wordAfter 0x3913C40 = some (0x213C40#24, 1#1) := by decide
theorem test_noteOn_velocity_zero : wordAfter 0x3903C00 = some (0x203C00#24, 1#1) := by decide
theorem test_polyAftertouch : wordAfter 0x3A5407F = some (0x35407F#24, 1#1) := by decide
theorem test_controlChange_truncates : wordAfter 0x3B3FBFF = some (0x437BFF#24, 1#1) := by decide
theorem test_controlChange_drops_bit_7 : wordAfter 0x3BF8000 = some (0x4F0000#24, 1#1) := by decide
theorem test_programChange_ignores_data2 : wordAfter 0x3C90577 = some (0x590500#24, 1#1) := by decide
theorem test_channelAftertouch_raw : wordAfter 0x2D0FF00 = some (0x60FF00#24, 1#1) := by decide
theorem test_pitchBend_order : wordAfter 0x3E00040 = some (0x700040#24, 1#1) := by decide
theorem test_pitchBend_default_msb : wordAfter 0x2EF00FF = some (0x7F0000#24, 1#1) := by decide
theorem test_tuneRequest : wordAfter 0x3F6FFFF = some (0x800000#24, 1#1) := by decide
theorem test_timingClock : wordAfter 0x3F80000 = some (0x900000#24, 1#1) := by decide
theorem test_start : wordAfter 0x3FA1234 = some (0xA00000#24, 1#1) := by decide
theorem test_continue : wordAfter 0x2FB0000 = some (0xC00000#24, 1#1) := by decide
theorem test_stop : wordAfter 0x2FC0000 = some (0xB00000#24, 1#1) := by decide
theorem test_activeSensing : wordAfter 0x3FEFEFE = some (0xD00000#24, 1#1) := by decide
theorem test_systemReset : wordAfter 0x3FF903C = some (0xE00000#24, 1#1) := by decide
theorem test_fail_one_byte : wordAfter 0x1FF0000 = some (0x000000#24, 0#1) := by decide
theorem test_fail_running_status : wordAfter 0x23C4000 = some (0x000000#24, 0#1) := by decide
theorem test_rbMake7_truncates : rbAfter 0#1 0b00#2 0x80#8 0x00#8 = some (0x00#8, 1#1) := by decide
theorem test_rbAnd7 : rbAfter 0#1 0b01#2 0xFF#8 0xFF#8 = some (0x7F#8, 1#1) := by decide
theorem test_rbOr7 : rbAfter 0#1 0b10#2 0x80#8 0x01#8 = some (0x01#8, 0#1) := by decide
theorem test_rbXor7 : rbAfter 0#1 0b11#2 0x7F#8 0x0F#8 = some (0x70#8, 0#1) := by decide
theorem test_rbMake3 : rbAfter 1#1 0b00#2 0x0A#8 0x00#8 = some (0x02#8, 0#1) := by decide
theorem test_rbAnd3 : rbAfter 1#1 0b01#2 0x06#8 0x03#8 = some (0x02#8, 0#1) := by decide
theorem test_rbOr3 : rbAfter 1#1 0b10#2 0x08#8 0x10#8 = some (0x00#8, 1#1) := by decide
theorem test_rbXor3 : rbAfter 1#1 0b11#2 0x0F#8 0x08#8 = some (0x07#8, 0#1) := by decide
theorem test_rbEq7_source : eqAfter 0#1 0b00#2 0xFB#8 0x7B#8 = some (0x7B#8, 1#1) := by decide
theorem test_rbEq7_unequal : eqAfter 0#1 0b11#2 0x01#8 0x02#8 = some (0x03#8, 0#1) := by decide
theorem test_rbEq3_source : eqAfter 1#1 0b00#2 0xFF#8 0x07#8 = some (0x07#8, 1#1) := by decide
theorem test_rbEq3_unequal : eqAfter 1#1 0b11#2 0x01#8 0x02#8 = some (0x03#8, 0#1) := by decide

/-! ## Classifier, PACK, UNPACK (95_test_vectors.md sections 3 and 7; R43 counts the unrecognized bytes) -/

set_option maxRecDepth 100000 in
theorem test_unrecognized_count :
    ((List.range 256).filter fun n => (classify (BitVec.ofNat 8 n)).isNone).length = 137 := by decide
set_option maxRecDepth 100000 in
theorem test_channel_voice_count :
    ((List.range 256).filter fun n => (classify (BitVec.ofNat 8 n)).any isChannelVoice).length = 112 := by decide
theorem test_pack_polyAftertouch : pack (some (.polyphonicAftertouch 5#4 64#8 127#8)) = 0x35407F#24 := by decide
theorem test_unpack_controlChange : unpack 0x437BFF#24 = .ok (some (.controlChange 3#4 123#7 255#8)) := by decide
theorem test_unpack_refuses_none_with_bits : unpack 0x010000#24 = .error .noneWithBits := by decide
theorem test_unpack_refuses_reserved_tag : unpack 0xF00000#24 = .error .reservedTag := by decide
theorem test_unpack_refuses_system_channel : unpack 0x910000#24 = .error .systemWithBits := by decide
theorem test_unpack_refuses_unused_field : unpack 0x6000FF#24 = .error .unusedField2 := by decide
theorem test_unpack_refuses_wide_control : unpack 0x408000#24 = .error .controlTooWide := by decide
theorem test_four_byte_group : decodeGroup [0x9F#8, 0x7F#8, 0x7F#8, 0x01#8] = some (.noteOn 15#4 127#8 127#8) := by
  decide

/-! ## Witnesses: every statement with hypotheses has a state and operands that meet them -/

/-- Reset, with one stable NoteOn presented. -/
def oneNoteOn : State := State.reset.presentFirst (stableDecode ⟨3#2, 0x91#8, 0x3C#8, 0x40#8⟩)

theorem witness_StepRunsTheDecodedOperation :
    (∃ p rest, oneNoteOn.pending = p :: rest ∧ p.stable = true) ∧
    (∃ p rest, (State.reset.presentFirst ⟨.decode ⟨3#2, 0x91#8, 0x3C#8, 0x40#8⟩, false⟩).pending = p :: rest ∧
      p.stable = false) ∧ State.reset.pending = [] :=
  ⟨⟨_, _, rfl, rfl⟩, ⟨_, _, rfl, rfl⟩, rfl⟩

theorem witness_StepKeepsSettled : ∃ s t, Settled s ∧ step s = .next t ∧ t.outWord = 0x213C40#24 :=
  ⟨oneNoteOn, _, ⟨⟨by decide, by decide, by decide, by decide⟩, by simp [ProducerHoldsLines, oneNoteOn, stableDecode, State.reset]⟩,
    rfl, by decide⟩

theorem witness_EveryMeaningKeepsLinesAndTheOtherUnit :
    (∃ t, exec (.noteOn 1#1 1#4 0x3C#8 0x40#8) State.reset = .next t) ∧
    (∃ t, exec (.rbOr7 0x40#8 0x01#8) State.reset = .next t) := ⟨⟨_, rfl⟩, ⟨_, rfl⟩⟩

theorem witness_UnitsAreIndependent :
    (∃ t p g, step (State.reset.presentFirst p) = .next t ∧ p.request = .decode g) ∧
    (∃ t p r, step (State.reset.presentFirst p) = .next t ∧ p.request = .select r) ∧
    (∃ t p r, step (State.reset.presentFirst p) = .next t ∧ p.request = .equality r) :=
  ⟨⟨_, stableDecode ⟨3#2, 0x91#8, 0x3C#8, 0x40#8⟩, _, rfl, rfl⟩,
   ⟨_, stableSelect ⟨0#1, 0b10#2, 0x40#8, 0x01#8⟩, _, rfl, rfl⟩,
   ⟨_, stableEquality ⟨0#1, 0b10#2, 0x40#8, 0x01#8⟩, _, rfl, rfl⟩⟩

/-- The premise of the settled clauses of UnitsAreIndependent and StepComputesDecode. -/
theorem witness_settled_lines : LinesSettled State.reset := ⟨by decide, by decide, by decide, by decide⟩

theorem witness_StableStepSettlesEveryOutput :
    ∃ s t : State, s.rbY ≠ rbResult s.rbLines ∧
      (stableDecode ⟨3#2, 0x91#8, 0x3C#8, 0x40#8⟩).stable = true ∧
      step (s.presentFirst (stableDecode ⟨3#2, 0x91#8, 0x3C#8, 0x40#8⟩)) = .next t :=
  ⟨{ State.reset with rbY := 0x55#8 }, _, by decide, rfl, rfl⟩

/-- A stale value on `rb_y` does not outlive the next operation of the other unit (R55). -/
theorem test_decode_step_settles_rb_y :
    (match step (({ State.reset with rbY := 0x55#8 } : State).withFetchWord 32 0x3913C40) with
      | .next t => some (t.outWord, t.rbY, t.rbEq)
      | .fault _ | .refused _ => none) = some (0x213C40#24, 0x00#8, 1#1) := by decide

theorem witness_PresentingAgainGivesTheSameAgain :
    (∃ t, (stableSelect ⟨1#1, 0b11#2, 0x05#8, 0x03#8⟩).stable = true ∧
      step (State.reset.presentFirst (stableSelect ⟨1#1, 0b11#2, 0x05#8, 0x03#8⟩)) = .next t) ∧
    (∃ t, State.reset.pending = [] ∧ step State.reset = .next t) :=
  ⟨⟨_, rfl, rfl⟩, ⟨_, rfl, rfl⟩⟩

theorem witness_OutputsForgetTheHistory :
    (∃ t t', step (State.reset.presentFirst (stableDecode ⟨3#2, 0x91#8, 0x3C#8, 0x40#8⟩)) = .next t ∧
      step (oneNoteOn.presentFirst (stableDecode ⟨3#2, 0x91#8, 0x3C#8, 0x40#8⟩)) = .next t') ∧
    (∃ t t', step (State.reset.presentFirst (stableSelect ⟨1#1, 0b11#2, 0x05#8, 0x03#8⟩)) = .next t ∧
      step (oneNoteOn.presentFirst (stableSelect ⟨1#1, 0b11#2, 0x05#8, 0x03#8⟩)) = .next t') ∧
    (∃ t t', step (State.reset.presentFirst (stableEquality ⟨1#1, 0b11#2, 0x05#8, 0x03#8⟩)) = .next t ∧
      step (oneNoteOn.presentFirst (stableEquality ⟨1#1, 0b11#2, 0x05#8, 0x03#8⟩)) = .next t') :=
  ⟨⟨_, _, rfl, rfl⟩, ⟨_, _, rfl, rfl⟩, ⟨_, _, rfl, rfl⟩⟩

theorem witness_RunShowsTheDecodeOfItsLastGroup :
    ({ State.reset with pending :=
        [stableSelect ⟨0#1, 0b00#2, 0xC5#8, 0x00#8⟩, stableDecode ⟨3#2, 0x91#8, 0x3C#8, 0x40#8⟩] } : State).pending =
      [stableSelect ⟨0#1, 0b00#2, 0xC5#8, 0x00#8⟩] ++ stableDecode ⟨3#2, 0x91#8, 0x3C#8, 0x40#8⟩ :: [] := rfl

theorem witness_RunShowsTheResultOfItsLastSelect :
    ({ oneNoteOn with pending := oneNoteOn.pending ++ [stableSelect ⟨0#1, 0b00#2, 0xC5#8, 0x00#8⟩] } : State).pending =
      oneNoteOn.pending ++ stableSelect ⟨0#1, 0b00#2, 0xC5#8, 0x00#8⟩ :: [] := rfl

theorem witness_ChangingLinesSampleFreeValues :
    State.reset.pending = [] ∧ ∃ q r, q = Request.select r ∨ q = Request.equality r :=
  ⟨rfl, .select ⟨0#1, 0b00#2, 0xC5#8, 0x00#8⟩, _, .inl rfl⟩

theorem witness_DecodeInvertsEncode :
    (Instr.noteOn 1#1 1#4 0x3C#8 0x40#8).wf = true ∧ (Instr.fail 1#2 0x90#8 0#8 0#8).wf = true ∧
    (Instr.rbEq3 3#2 0xFF#8 0x07#8).wf = true := by decide

theorem witness_OpcodeRowsAreDisjoint :
    ∃ w : InWord, ∃ r ∈ inTable, ∃ r' ∈ inTable, r.accepts w = true ∧ r'.accepts w = true :=
  ⟨0x3913C40#26, ⟨0x2F00000#26, 0x2900000#26, .noteOn⟩, by decide, ⟨0x2F00000#26, 0x2900000#26, .noteOn⟩, by decide,
    by decide, by decide⟩

theorem witness_OpcodeTableAgreesWithClassifier :
    categoryOfWord 0x3913C40#26 = some .noteOn ∧ categoryOfWord 0x2FF0000#26 = some .systemReset := by decide

/-- The boundary status bytes of every clause of StatusByteSelectsTheTag, each with a group of two bytes. -/
theorem witness_StatusByteSelectsTheTag :
    ∀ b ∈ [0x00#8, 0x7F#8, 0x80#8, 0xEF#8, 0xF0#8, 0xF5#8, 0xF7#8, 0xF9#8, 0xFD#8, 0xF6#8, 0xF8#8, 0xFA#8, 0xFB#8,
        0xFC#8, 0xFE#8, 0xFF#8],
      2#2 ≤ (InLines.mk 2#2 b 0#8 0#8).len ∧
      ∃ t, step (State.reset.presentFirst (stableDecode (InLines.mk 2#2 b 0#8 0#8))) = .next t := by
  intro b _
  refine ⟨BitVec.le_refl _, ?_⟩
  rw [step_presentFirst]
  simp only [stableDecode, sampleResult_stable]
  exact exec_completes _ _

theorem witness_LengthMattersInThreeWays :
    ([0x90#8] : List Byte).length < 2 ∧ 0x8#4 ∈ [0x8#4, 0x9#4, 0xA#4, 0xB#4, 0xE#4] ∧
    0xE#4 ∈ [0x8#4, 0x9#4, 0xA#4, 0xB#4, 0xE#4] ∧
    (∃ t u, stepOnGroup State.reset State.reset.inLines [0x90#8, 0x3C#8] = .next t ∧
      stepOnGroup State.reset State.reset.inLines [0x90#8, 0x3C#8, 0x00#8] = .next u) ∧
    (∃ t u, stepOnGroup State.reset State.reset.inLines [0x90#8, 0x3C#8, 0x40#8, 0x3E#8, 0x40#8] = .next t ∧
      stepOnGroup State.reset State.reset.inLines [0x90#8, 0x3C#8, 0x40#8] = .next u) :=
  ⟨by decide, by decide, by decide, ⟨_, _, rfl, rfl⟩, ⟨_, _, rfl, rfl⟩⟩

theorem witness_AbsentByteLinesAreNeverRead :
    ∃ (g g' : InLines) (t t' : State), g ≠ g' ∧ g'.len = g.len ∧ (1#2 ≤ g.len → g'.b0 = g.b0) ∧
      (2#2 ≤ g.len → g'.b1 = g.b1) ∧ (g.len = 3#2 → g'.b2 = g.b2) ∧
      step (State.reset.presentFirst (stableDecode g)) = .next t ∧
      step (State.reset.presentFirst (stableDecode g')) = .next t' :=
  ⟨⟨2#2, 0x91#8, 0x3C#8, 0x00#8⟩, ⟨2#2, 0x91#8, 0x3C#8, 0xFF#8⟩, _, _, by decide, rfl, fun _ => rfl, fun _ => rfl,
    by decide, rfl, rfl⟩

theorem witness_ProducerLapsesAreSilent : (0x7F#8 : Byte) < 0x80#8 := by decide

/-- The length-failure clause of the voice and system rows. -/
theorem witness_rows_short_group : (0#2 : BitVec 2) < 2#2 ∧ (1#2 : BitVec 2) < 2#2 := by decide

theorem witness_UnpackInvertsPack : ∃ m n : Option Message, pack m = pack n := ⟨some allNotesOff, some allNotesOff, rfl⟩

theorem witness_PackInvertsUnpack : ∃ w m, unpack w = .ok m ∧ m.isSome = true :=
  ⟨0x437BFF#24, _, test_unpack_controlChange, rfl⟩

theorem witness_RestrictedResultsStayInTheirDomain :
    (∃ t, step (State.reset.presentFirst (stableSelect ⟨0#1, 0b11#2, 0xFF#8, 0x00#8⟩)) = .next t) ∧
    (∃ t, step (State.reset.presentFirst (stableEquality ⟨1#1, 0b11#2, 0xFF#8, 0x00#8⟩)) = .next t) :=
  ⟨⟨_, rfl⟩, ⟨_, rfl⟩⟩

end Sys2Proof.Tests
end

section
/-! PROOFS of the family 10_state. The shape of the argument: every meaning drives one unit (`exec_drives`), a decode
meaning drives DECODE of its lines (`exec_decode`), and so one step is "the values arrive, both units settle, the outputs
are sampled" (`step_eq`). The statements about steps are read off that equation. -/

namespace Sys2Proof.Machine

/-! ### DECODE of R92 is PACK of a message, and the decode meanings drive it -/

/-- The message the decode lines stand for: none unless `in_len` is 2 or 3 and the status byte is recognized (R91, R93). -/
def decodeLines (g : InLines) : Option Message :=
  if g.len.extractLsb' 1 1 = 1#1 then
    (classify g.b0).map (messageOf (channelOf g.b0) g.b1 (data2OfLen g.len g.b2))
  else none

theorem short_len_iff : ∀ len : BitVec 2, (len = 0#2 ∨ len = 1#2) ↔ ¬ len.extractLsb' 1 1 = 1#1 := by decide

theorem long_len_eq : ∀ len : BitVec 2, len.extractLsb' 1 1 = 1#1 → 1#1 ++ len.extractLsb' 0 1 = len := by decide

theorem zext8_controlOf : ∀ d : Byte, zext8 (controlOf d) = 0#1 ++ d.extractLsb' 0 7 := by decide

/-- The ControlChange row of R92 is the word of its four fields (R48, R79). -/
theorem controlChange_word (c : Nibble) (d1 d2 : Byte) :
    0x4#4 ++ c ++ 0b0#1 ++ d1.extractLsb' 0 7 ++ d2 = wordOf 0x4#4 c (zext8 (controlOf d1)) d2 := by
  rw [zext8_controlOf]
  apply BitVec.eq_of_getLsbD_eq
  intro i hi
  simp only [wordOf, BitVec.getLsbD_append]
  interval_cases i <;> simp

/-- DECODE (R92) is PACK (R94) of the message on the lines. -/
theorem decodePort_eq_pack (g : InLines) : decodePort g = pack (decodeLines g) := by
  unfold decodePort decodeLines
  by_cases hlen : g.len.extractLsb' 1 1 = 1#1
  · rw [if_neg (by rw [short_len_iff]; exact not_not_intro hlen), if_pos hlen]
    cases classify g.b0 with
    | none => rfl
    | some cat =>
      cases cat with
      | controlChange => exact controlChange_word _ _ _
      | noteOff | noteOn | polyphonicAftertouch | programChange | channelAftertouch | pitchBend | tuneRequest
      | timingClock | start | stop | midiContinue | activeSensing | systemReset => rfl
  · rw [if_pos ((short_len_iff _).2 hlen), if_neg hlen]
    rfl

/-- The row a packed word matches is the category of its status byte, for groups of at least two bytes (R75). -/
theorem categoryOfWord_word (g : InLines) :
    categoryOfWord g.word = if g.len.extractLsb' 1 1 = 1#1 then classify g.b0 else none := by
  have hlen : (g.len ++ g.b0 : BitVec 10).extractLsb' 9 1 = g.len.extractLsb' 1 1 :=
    BitVec.extractLsb'_append_eq_of_le (by decide)
  have hb0 : (g.len ++ g.b0 : BitVec 10).extractLsb' 0 8 = g.b0 := BitVec.extractLsb'_append_eq_right
  rw [categoryOfWord_lines, categoryOfWord_head, hlen, hb0]

/-- What the lines of a decode decode to drives PACK of their message. -/
theorem exec_decode_message (g : InLines) (s : State) :
    exec (decode (.decode g)) s = .next (s.driveMessage (decodeLines g)) := by
  obtain ⟨_, hl, _, _, hc, hp, hq⟩ := g.word_fields
  simp only [decode, decodeInWord, categoryOfWord_word, decodeLines]
  by_cases hlen : g.len.extractLsb' 1 1 = 1#1
  · simp only [if_pos hlen]
    cases classify g.b0 with
    | none => rfl
    | some cat =>
      simp only [exec_ofCategory, hl, hc, hp, hq, data2, long_len_eq _ hlen, Option.map_some]
  · simp only [if_neg hlen]
    rfl

/-- What the lines of a decode decode to drives DECODE of them (R92). -/
theorem exec_decode (g : InLines) (s : State) :
    exec (decode (.decode g)) s = .next (s.driveOut (decodePort g)) := by
  rw [exec_decode_message, decodePort_eq_pack, State.driveMessage_eq]

/-! ### Every meaning drives the outputs of one unit -/

/-- All a meaning can do: drive the message outputs, or `rb_y` with `rb_eq`, or `rb_eq` alone (R64, R83). -/
theorem exec_drives (i : Instr) (s : State) :
    (∃ m, exec i s = .next (s.driveMessage m)) ∨
    (∃ w y a b, exec i s = .next (s.driveSelect w y a b)) ∨
    (∃ w a b, exec i s = .next (s.driveEquality w a b)) := by
  cases i with
  | noteOff | noteOn | polyAftertouch | controlChange | programChange | channelAftertouch | pitchBend
  | tuneRequest | timingClock | start | midiContinue | stop | activeSensing | systemReset | fail =>
    exact .inl ⟨_, rfl⟩
  | rbMake7 | rbAnd7 | rbOr7 | rbXor7 | rbMake3 | rbAnd3 | rbOr3 | rbXor3 => exact .inr (.inl ⟨_, _, _, _, rfl⟩)
  | rbEq7 | rbEq3 => exact .inr (.inr ⟨_, _, _, rfl⟩)

theorem State.driveOut_sameInputs (s : State) (w : OutWord) : SameInputs s (s.driveOut w) := ⟨rfl, rfl, rfl, rfl, rfl⟩

theorem State.driveSelect_sameInputs (s : State) (w : Bit) (y a b : Byte) : SameInputs s (s.driveSelect w y a b) :=
  ⟨rfl, rfl, rfl, rfl, rfl⟩

theorem State.driveEquality_sameInputs (s : State) (w : Bit) (a b : Byte) : SameInputs s (s.driveEquality w a b) :=
  ⟨rfl, rfl, rfl, rfl, rfl⟩

/-! ### A step: the values arrive, both units settle, the outputs are sampled -/

/-- The values of a request arrive on the lines of its unit; no output follows yet. -/
def State.arrive (s : State) : Request → State
  | .decode g => { s with inLines := g, port := .decode }
  | .select r => { s with rbLines := r, port := .rbSelect }
  | .equality r => { s with rbLines := r, port := .rbEquality }

/-- The outputs of both units follow their lines (R55, R92). -/
def State.settle (s : State) : State := s.settleDecode.settleRb

section Fields

variable (s : State) (q : Request) (p : Presentation) (g : InLines) (r : RbLines)

@[simp] theorem State.arrive_pending : (s.arrive q).pending = s.pending := by cases q <;> rfl
@[simp] theorem State.arrive_decode_inLines : (s.arrive (.decode g)).inLines = g := rfl
@[simp] theorem State.arrive_decode_rbLines : (s.arrive (.decode g)).rbLines = s.rbLines := rfl
@[simp] theorem State.arrive_select_inLines : (s.arrive (.select r)).inLines = s.inLines := rfl
@[simp] theorem State.arrive_select_rbLines : (s.arrive (.select r)).rbLines = r := rfl
@[simp] theorem State.arrive_equality_inLines : (s.arrive (.equality r)).inLines = s.inLines := rfl
@[simp] theorem State.arrive_equality_rbLines : (s.arrive (.equality r)).rbLines = r := rfl

@[simp] theorem State.settle_inLines : s.settle.inLines = s.inLines := rfl
@[simp] theorem State.settle_rbLines : s.settle.rbLines = s.rbLines := rfl
@[simp] theorem State.settle_pending : s.settle.pending = s.pending := rfl
@[simp] theorem State.settle_outWord : s.settle.outWord = decodePort s.inLines := rfl
@[simp] theorem State.settle_outValid : s.settle.outValid = outValidOf (decodePort s.inLines) := rfl
@[simp] theorem State.settle_rbY : s.settle.rbY = rbResult s.rbLines := rfl
@[simp] theorem State.settle_rbEq : s.settle.rbEq = rbEqOf s.rbLines.w s.rbLines.a s.rbLines.b := rfl

theorem State.settle_linesSettled : LinesSettled s.settle := ⟨rfl, rfl, rfl, rfl⟩

theorem State.sampled_of_stable {p : Presentation} (hp : p.stable = true) : s.sampled p = s := if_pos hp

@[simp] theorem State.sampleChanging_inLines : (s.sampleChanging q).inLines = s.inLines := by cases q <;> rfl
@[simp] theorem State.sampleChanging_rbLines : (s.sampleChanging q).rbLines = s.rbLines := by cases q <;> rfl
@[simp] theorem State.sampleChanging_pending : (s.sampleChanging q).pending = s.pending := by cases q <;> rfl

@[simp] theorem State.sampled_inLines : (s.sampled p).inLines = s.inLines := by
  rw [State.sampled, apply_ite State.inLines, State.sampleChanging_inLines, ite_self]
@[simp] theorem State.sampled_rbLines : (s.sampled p).rbLines = s.rbLines := by
  rw [State.sampled, apply_ite State.rbLines, State.sampleChanging_rbLines, ite_self]
@[simp] theorem State.sampled_pending : (s.sampled p).pending = s.pending := by
  rw [State.sampled, apply_ite State.pending, State.sampleChanging_pending, ite_self]

/-- Sampling a decode, held stable or not, leaves the RB outputs. -/
theorem State.sampled_decode_rb {p : Presentation} {g : InLines} (hp : p.request = .decode g) :
    (s.sampled p).rbY = s.rbY ∧ (s.sampled p).rbEq = s.rbEq := by
  unfold State.sampled
  rw [hp]
  split <;> exact ⟨rfl, rfl⟩

/-- Sampling an RB operation, held stable or not, leaves the decoder's outputs. -/
theorem State.sampled_rb_out {p : Presentation} {r : RbLines}
    (hp : p.request = .select r ∨ p.request = .equality r) :
    (s.sampled p).outWord = s.outWord ∧ (s.sampled p).outValid = s.outValid := by
  unfold State.sampled
  rcases hp with hp | hp <;> rw [hp] <;> split <;> exact ⟨rfl, rfl⟩

end Fields

/-- Presenting a request and running what it decodes to is: the values arrive, both units settle. -/
theorem exec_present (q : Request) (s : State) :
    exec (decode q) (s.present q) = .next (s.arrive q).settle := by
  cases q with
  | decode g => exact exec_decode g _
  | select r => exact exec_select r _
  | equality r => exact exec_equality r _

/-- What one step does, from every state. -/
theorem step_eq (s : State) :
    step s = .next ((({ s with pending := s.pending.tail } : State).arrive
      s.nextPresentation.request).settle.sampled s.nextPresentation) := by
  simp only [step, State.afterPresentation, exec_present, sampleResult_next]

/-- A step on the head of the list settles both units on its values and takes it from the list. -/
theorem step_of_cons {s : State} {p : Presentation} {ps : List Presentation} (h : s.pending = p :: ps) :
    step s = .next ((({ s with pending := ps } : State).arrive p.request).settle.sampled p) := by
  rw [step_eq, State.nextPresentation_of_cons s p ps h, h, List.tail_cons]

theorem eq_of_step_presentFirst {s t : State} {p : Presentation} (h : step (s.presentFirst p) = .next t) :
    t = (s.arrive p.request).settle.sampled p :=
  (Host.Outcome.next.inj ((step_of_cons rfl).symm.trans h)).symm

theorem eq_of_stable_step {s t : State} {p : Presentation} (hp : p.stable = true)
    (h : step (s.presentFirst p) = .next t) : t = (s.arrive p.request).settle := by
  rw [eq_of_step_presentFirst h, State.sampled_of_stable _ hp]

/-- A step on the head of the list runs the operation its request decodes to. -/
theorem step_runs_head {s : State} {p : Presentation} {ps : List Presentation} (h : s.pending = p :: ps) :
    step s = sampleResult p (exec (decode p.request) (({ s with pending := ps } : State).present p.request)) := by
  rw [step, State.nextPresentation_of_cons s p ps h, State.afterPresentation_of_cons s p ps h]

/-- What a step runs of a producer that honours R112 is held stable. -/
theorem nextPresentation_stable {s : State} (h : ProducerHoldsLines s) : s.nextPresentation.stable = true := by
  cases hs : s.pending with
  | nil => rw [State.nextPresentation_of_nil s hs]
  | cons p ps =>
    rw [State.nextPresentation_of_cons s p ps hs]
    exact h p (by simp [hs])

/-! ### A run takes the producer's presentations in order -/

@[simp] theorem runSteps_one (s : State) : runSteps 1 s = step s := by
  unfold runSteps
  cases step s <;> rfl

/-- A run up to and including `p` ends with a step on `p`, whatever was presented before it. -/
theorem runSteps_reaches (before : List Presentation) (p : Presentation) (after : List Presentation) (s : State)
    (h : s.pending = before ++ p :: after) :
    ∃ u : State, u.pending = p :: after ∧ runSteps (before.length + 1) s = step u := by
  induction before generalizing s with
  | nil => exact ⟨s, h, runSteps_one s⟩
  | cons q qs ih =>
    obtain ⟨u, hu, hrun⟩ :=
      ih ((({ s with pending := qs ++ p :: after } : State).arrive q.request).settle.sampled q) (by simp)
    refine ⟨u, hu, ?_⟩
    rw [List.length_cons, runSteps, step_of_cons h]
    exact hrun

/-! ### The restricted-byte domain -/

/-- Every result of the restricted-byte unit is truncated to the width on `rb_w` (R56 to R63). -/
theorem rbResult_truncates (r : RbLines) : ∃ v : Byte, rbResult r = v &&& rbMask r.w := by
  unfold rbResult
  split
  · exact ⟨_, rfl⟩
  split
  · exact ⟨_, rfl⟩
  split
  · exact ⟨_, rfl⟩
  · exact ⟨_, rfl⟩

theorem rbMask_toNat : ∀ w : Bit, (rbMask w).toNat < 2 ^ rbWidth w := by decide

/-- A truncated value is in RestrictedByte(N) (R25). -/
theorem truncated_inRestrictedDomain (w : Bit) (v : Byte) :
    inRestrictedDomain w (v &&& rbMask w) = true ∧ (v &&& rbMask w).toNat < 2 ^ rbWidth w := by
  constructor
  · simp [inRestrictedDomain, BitVec.and_assoc]
  · rw [BitVec.toNat_and]
    exact Nat.and_le_right.trans_lt (rbMask_toNat w)

/-! ### The statements -/

/-- Settles O4: a step of a producer that honours R112 ends with both units settled, and only shortens its list. -/
theorem stepKeepsSettled : Obligations.StepKeepsSettled := by
  intro s t hs h
  rw [step_eq, State.sampled_of_stable _ (nextPresentation_stable hs.producer)] at h
  obtain rfl := Host.Outcome.next.inj h
  refine ⟨State.settle_linesSettled _, fun p hp => hs.producer p ?_⟩
  rw [State.settle_pending, State.arrive_pending] at hp
  exact List.mem_of_mem_tail hp

/-- Settles O6, by the three things a meaning can do. -/
theorem everyMeaningKeepsLinesAndTheOtherUnit : Obligations.EveryMeaningKeepsLinesAndTheOtherUnit := by
  intro i s t h
  obtain ⟨m, hm⟩ | ⟨w, y, a, b, hs⟩ | ⟨w, a, b, he⟩ := exec_drives i s
  · obtain rfl := Host.Outcome.next.inj (hm.symm.trans h)
    exact ⟨s.driveOut_sameInputs _, .inl ⟨rfl, rfl⟩⟩
  · obtain rfl := Host.Outcome.next.inj (hs.symm.trans h)
    exact ⟨s.driveSelect_sameInputs w y a b, .inr ⟨rfl, rfl⟩⟩
  · obtain rfl := Host.Outcome.next.inj (he.symm.trans h)
    exact ⟨s.driveEquality_sameInputs w a b, .inr ⟨rfl, rfl⟩⟩

/-- Settles O7: the other unit settles on lines that did not change, and sampling does not reach it. -/
theorem unitsAreIndependent : Obligations.UnitsAreIndependent := by
  intro s t p h
  obtain rfl := eq_of_step_presentFirst h
  constructor
  · intro g hp
    obtain ⟨hy, he⟩ := (s.arrive p.request).settle.sampled_decode_rb hp
    have hlines : (s.arrive p.request).rbLines = s.rbLines := by rw [hp, State.arrive_decode_rbLines]
    simp only [hy, he, hlines, State.sampled_rbLines, State.settle_rbLines, State.settle_rbY, State.settle_rbEq,
      true_and]
    exact fun hs => ⟨hs.rbY.symm, hs.rbEq.symm⟩
  · intro r hp
    obtain ⟨hw, hv⟩ := (s.arrive p.request).settle.sampled_rb_out hp
    have hlines : (s.arrive p.request).inLines = s.inLines := by rcases hp with hp | hp <;> rw [hp] <;> rfl
    simp only [hw, hv, hlines, State.sampled_inLines, State.settle_inLines, State.settle_outWord,
      State.settle_outValid, true_and]
    exact fun hs => ⟨hs.outWord.symm, by rw [hs.outValid, hs.outWord]⟩

/-- Settles O9: after a stable step the outputs of its unit are functions of the values presented. -/
theorem outputsForgetTheHistory : Obligations.OutputsForgetTheHistory := by
  intro s s' t t'
  refine ⟨fun g h h' => ?_, fun r h h' => ?_, fun r h h' => ?_⟩
  all_goals
    rw [eq_of_stable_step rfl h, eq_of_stable_step rfl h']
    exact ⟨rfl, rfl⟩

/-- Settles O11, by induction on what was presented before the select. -/
theorem runShowsTheResultOfItsLastSelect : Obligations.RunShowsTheResultOfItsLastSelect := by
  intro before r after s h
  obtain ⟨u, hu, hrun⟩ := runSteps_reaches before (stableSelect r) after s h
  rw [hrun, step_of_cons hu, State.sampled_of_stable _ rfl]
  exact ⟨_, rfl, rfl, rfl, rfl, rfl⟩

/-- Settles O42: both steps leave on `rb_y` the result of the lines, which is truncated. -/
theorem restrictedResultsStayInTheirDomain : Obligations.RestrictedResultsStayInTheirDomain := by
  intro s t r h
  have hy : t.rbY = rbResult r := by
    rcases h with h | h <;> rw [eq_of_stable_step rfl h] <;> rfl
  obtain ⟨v, hv⟩ := rbResult_truncates r
  rw [hy, hv]
  exact truncated_inRestrictedDomain r.w v

/-- Settles O3: the next presentation is the head of the list, or the held lines. -/
theorem stepRunsTheDecodedOperation : Obligations.StepRunsTheDecodedOperation := by
  intro s
  refine ⟨fun p rest h hp => ?_, fun p rest h _ => step_runs_head h, fun h => ?_⟩
  · rw [step_runs_head h, sampleResult_of_stable hp]
  · rw [step, State.nextPresentation_of_nil s h, State.afterPresentation_of_nil s h, sampleResult_stable]

end Sys2Proof.Machine
end

section
/-! PROOFS of the family 20_memory. A stable step is an arrival that both units then settle on, so presenting the same
values again finds nothing to change; and what a step on a byte sequence drives is PACK of the sequence's decode
(`stepOnGroup_drives`), in which neither absent lines nor bytes beyond the third occur (R28, R29). -/

namespace Sys2Proof.Machine

/-! ### The same values again -/

/-- A step with nothing pending settles both units on the held lines (log entry 2). -/
theorem step_of_nil {s : State} (h : s.pending = []) : step s = .next (s.arrive s.heldRequest).settle := by
  have hs : ({ s with pending := s.pending.tail } : State) = s := by rw [h, List.tail_nil, ← h]
  rw [step_eq, State.nextPresentation_of_nil s h, hs, State.sampled_of_stable _ rfl]

theorem step_presentFirst_of_stable (s : State) {p : Presentation} (hp : p.stable = true) :
    step (s.presentFirst p) = .next (s.arrive p.request).settle := by
  rw [step_of_cons rfl, State.sampled_of_stable _ hp]
  rfl

/-- Arriving a second time and settling changes nothing (R35). -/
theorem State.arrive_settle_idem (s : State) (q : Request) :
    ((s.arrive q).settle.arrive q).settle = (s.arrive q).settle := by
  cases q <;> rfl

@[simp] theorem State.heldRequest_arrive_settle (s : State) (q : Request) : (s.arrive q).settle.heldRequest = q := by
  cases q <;> rfl

/-- Settles O8: the values that arrive are those the lines already carry. -/
theorem presentingAgainGivesTheSameAgain : Obligations.PresentingAgainGivesTheSameAgain := by
  constructor
  · intro s t p hp h
    obtain rfl := eq_of_stable_step hp h
    rw [step_presentFirst_of_stable _ hp, State.arrive_settle_idem]
  · intro s t hs h
    obtain rfl := Host.Outcome.next.inj ((step_of_nil hs).symm.trans h)
    have ht : (s.arrive s.heldRequest).settle.pending = [] := by
      rw [State.settle_pending, State.arrive_pending, hs]
    rw [step_of_nil ht, State.heldRequest_arrive_settle, State.arrive_settle_idem]

/-- Settles O10: the run ends with a stable step on the group. -/
theorem runShowsTheDecodeOfItsLastGroup : Obligations.RunShowsTheDecodeOfItsLastGroup := by
  intro before g after s h
  obtain ⟨u, hu, hrun⟩ := runSteps_reaches before (stableDecode g) after s h
  rw [hrun, step_of_cons hu, State.sampled_of_stable _ rfl]
  exact ⟨_, rfl, rfl, rfl, rfl, rfl⟩

/-! ### Lines that carry no byte -/

theorem le_len_of_long_len : ∀ len : BitVec 2, len.extractLsb' 1 1 = 1#1 → 1#2 ≤ len ∧ 2#2 ≤ len := by decide

/-- `data2` reads `in_b2` only where three bytes are present (R45). -/
theorem data2OfLen_congr {len : BitVec 2} {b b' : Byte} (h : len = 3#2 → b' = b) :
    data2OfLen len b' = data2OfLen len b := by
  unfold data2OfLen
  split
  · next hlen => exact h hlen
  · rfl

/-- The message on the lines is a function of the bytes present (R28). -/
theorem decodeLines_congr {g g' : InLines} (hlen : g'.len = g.len) (h0 : 1#2 ≤ g.len → g'.b0 = g.b0)
    (h1 : 2#2 ≤ g.len → g'.b1 = g.b1) (h2 : g.len = 3#2 → g'.b2 = g.b2) : decodeLines g' = decodeLines g := by
  unfold decodeLines
  rw [hlen]
  by_cases hlong : g.len.extractLsb' 1 1 = 1#1
  · obtain ⟨hone, htwo⟩ := le_len_of_long_len _ hlong
    rw [h0 hone, h1 htwo, data2OfLen_congr h2]
  · rw [if_neg hlong, if_neg hlong]

/-- Settles O24: DECODE is PACK of the message on the lines, which is a function of the bytes present. -/
theorem absentByteLinesAreNeverRead : Obligations.AbsentByteLinesAreNeverRead := by
  intro s t t' g g' hlen h0 h1 h2 h h'
  have hdecode : decodePort g' = decodePort g := by
    rw [decodePort_eq_pack, decodePort_eq_pack, decodeLines_congr hlen h0 h1 h2]
  rw [eq_of_stable_step rfl h, eq_of_stable_step rfl h']
  exact ⟨hdecode, congrArg outValidOf hdecode⟩

/-! ### Byte sequences on the lines -/

theorem decodeLines_of_short {g : InLines} {len : BitVec 2} (hlen : g.len = len)
    (hshort : ¬ len.extractLsb' 1 1 = 1#1) : decodeLines g = none := by
  rw [decodeLines, hlen, if_neg hshort]

theorem decodeLines_of_long {g : InLines} {len : BitVec 2} (hlen : g.len = len) (hlong : len.extractLsb' 1 1 = 1#1) :
    decodeLines g = (classify g.b0).map (messageOf (channelOf g.b0) g.b1 (data2OfLen len g.b2)) := by
  rw [decodeLines, hlen, if_pos hlong]

theorem lenLine_of_three (b0 d1 d2 : Byte) (rest : List Byte) : lenLine (b0 :: d1 :: d2 :: rest) = 3#2 := by
  rw [lenLine, Nat.min_eq_right (by simp)]

/-- The lines of a byte sequence stand for its decode, whatever the absent lines carry (R28, R93). -/
theorem decodeLines_portForm (fill : InLines) : ∀ bytes : List Byte,
    decodeLines (portForm fill bytes) = decodeGroup bytes
  | [] => decodeLines_of_short (g := portForm fill []) (len := 0#2) rfl (by decide)
  | [b0] => decodeLines_of_short (g := portForm fill [b0]) (len := 1#2) rfl (by decide)
  | [b0, d1] => decodeLines_of_long (g := portForm fill [b0, d1]) (len := 2#2) rfl (by decide)
  | b0 :: d1 :: d2 :: rest =>
    decodeLines_of_long (g := portForm fill (b0 :: d1 :: d2 :: rest)) (lenLine_of_three b0 d1 d2 rest) (by decide)

/-- A step on a byte sequence drives PACK of its decode (R93, R94). -/
theorem stepOnGroup_drives (s : State) (fill : InLines) (bytes : List Byte) :
    Completes (stepOnGroup s fill bytes) fun t => t.outWord = pack (decodeGroup bytes) := by
  refine ⟨_, step_presentFirst_of_stable s rfl, ?_⟩
  rw [← decodeLines_portForm fill, ← decodePort_eq_pack]
  rfl

theorem outWord_of_stepOnGroup {s t : State} {fill : InLines} {bytes : List Byte}
    (h : stepOnGroup s fill bytes = .next t) : t.outWord = pack (decodeGroup bytes) := by
  obtain ⟨u, hu, hw⟩ := stepOnGroup_drives s fill bytes
  rwa [Host.Outcome.next.inj (h.symm.trans hu)]

theorem Completes.mono {r : Result} {P Q : State → Prop} (h : Completes r P) (hPQ : ∀ t, P t → Q t) :
    Completes r Q := by
  obtain ⟨t, ht, hP⟩ := h
  exact ⟨t, ht, hPQ t hP⟩

theorem decodeGroup_of_short : ∀ bytes : List Byte, bytes.length < 2 → decodeGroup bytes = none
  | [], _ | [_], _ => rfl
  | _ :: _ :: _, h => absurd h (by simp)

/-! ### The categories whose word shows `data2` -/

/-- The categories with `data2` in F2 (R46, R48, D7). -/
def data2Categories : List Category := [.noteOff, .noteOn, .polyphonicAftertouch, .controlChange, .pitchBend]

/-- The status nibbles that select them (R70, R71). -/
theorem classify_data2Categories : ∀ n ∈ [0x8#4, 0x9#4, 0xA#4, 0xB#4, 0xE#4], ∀ c : Nibble,
    ∃ cat ∈ data2Categories, classify (n ++ c) = some cat := by decide

/-- F2 of their word is `data2` (R46, R48). -/
theorem packMessage_data2 {cat : Category} (hcat : cat ∈ data2Categories) (c : Nibble) (d1 d2 : Byte) :
    (packMessage (messageOf c d1 d2 cat)).extractLsb' 0 8 = d2 := by
  have hf2 (tag : Nibble) (f1 : Byte) : (wordOf tag c f1 d2).extractLsb' 0 8 = d2 := by
    obtain ⟨_, _, _, h⟩ := wordOf_fields tag c f1 d2
    exact h
  cases cat with
  | noteOff | noteOn | polyphonicAftertouch | controlChange | pitchBend => exact hf2 _ _
  | programChange | channelAftertouch | tuneRequest | timingClock | start | stop | midiContinue | activeSensing
  | systemReset => exact absurd hcat (by decide)

/-- F2 of the decode of such a group is its third byte, 0 where there is none (R29). -/
theorem decodeGroup_data2 {n : Nibble} (hn : n ∈ [0x8#4, 0x9#4, 0xA#4, 0xB#4, 0xE#4]) (c : Nibble) (d1 : Byte)
    (rest : List Byte) :
    (pack (decodeGroup ((n ++ c) :: d1 :: rest))).extractLsb' 0 8 = rest.headD 0x00#8 := by
  obtain ⟨cat, hcat, hclass⟩ := classify_data2Categories n hn c
  rw [decodeGroup, hclass]
  exact packMessage_data2 hcat _ _ _

/-- Settles O23: the word is PACK of the decode of the bytes, which is read off the sequence. -/
theorem lengthMattersInThreeWays : Obligations.LengthMattersInThreeWays := by
  intro s fill
  refine ⟨fun bytes hshort => ?_, fun b0 d1 t u ht hu => ?_, fun b0 d1 d2 rest t u ht hu => ?_,
    fun n hn c d1 => ?_, fun n hn c d1 d2 rest => ?_⟩
  · refine (stepOnGroup_drives s fill bytes).mono fun t hw => ?_
    rw [hw, decodeGroup_of_short bytes hshort]
    rfl
  · rw [outWord_of_stepOnGroup ht, outWord_of_stepOnGroup hu]
    rfl
  · rw [outWord_of_stepOnGroup ht, outWord_of_stepOnGroup hu]
    rfl
  · exact (stepOnGroup_drives s fill _).mono fun t hw => hw ▸ decodeGroup_data2 hn c d1 []
  · exact (stepOnGroup_drives s fill _).mono fun t hw => hw ▸ decodeGroup_data2 hn c d1 (d2 :: rest)

end Sys2Proof.Machine
end

section
/-! PROOFS of the family 30_encoding. The one fact about the decoder is that a word of at least two bytes matches the row
of its status byte's category (`categoryOfWord_word`), and a category with its channel gives the status byte back
(`statusByte`); both round trips, and the tags of the words driven, follow from it. That the words driven are those
UNPACK accepts follows from UNPACK being the inverse of PACK on them. -/

namespace Sys2Proof.Machine

/-! ### The status byte of a category -/

/-- The status byte of a category on a channel; a system category has one status byte only (R43). -/
def statusByte (cat : Category) (c : Nibble) : Byte :=
  match cat with
  | .noteOff => 0x8#4 ++ c
  | .noteOn => 0x9#4 ++ c
  | .polyphonicAftertouch => 0xA#4 ++ c
  | .controlChange => 0xB#4 ++ c
  | .programChange => 0xC#4 ++ c
  | .channelAftertouch => 0xD#4 ++ c
  | .pitchBend => 0xE#4 ++ c
  | .tuneRequest => 0xF6#8
  | .timingClock => 0xF8#8
  | .start => 0xFA#8
  | .midiContinue => 0xFB#8
  | .stop => 0xFC#8
  | .activeSensing => 0xFE#8
  | .systemReset => 0xFF#8

theorem classify_statusByte (cat : Category) : ∀ c : Nibble, classify (statusByte cat c) = some cat := by
  cases cat <;> decide

theorem statusByte_of_classify : ∀ b : Byte, ∀ cat ∈ classify b, statusByte cat (channelOf b) = b := by decide

theorem isChannelVoice_iff_statusNibble (cat : Category) : ∀ c : Nibble,
    isChannelVoice cat = true ↔ statusNibble (statusByte cat c) ≠ 0xF#4 := by
  cases cat <;> decide

/-- The operation of a category reads its channel from its status byte, or reads none. -/
theorem ofCategory_statusByte (l : Bit) (c : Nibble) (p q : Byte) (cat : Category) :
    Instr.ofCategory l (channelOf (statusByte cat c)) p q cat = Instr.ofCategory l c p q cat := by
  cases cat with
  | noteOff | noteOn | polyphonicAftertouch | controlChange | programChange | channelAftertouch | pitchBend =>
    simp only [statusByte, (status_fields _ c).1]
  | tuneRequest | timingClock | start | stop | midiContinue | activeSensing | systemReset => rfl

/-! ### The two round trips -/

/-- A group of at least two bytes decodes to the operation of its status byte's category (R44, R71). -/
theorem decode_of_classify {g : InLines} {cat : Category} (hlen : g.len.extractLsb' 1 1 = 1#1)
    (hcat : classify g.b0 = some cat) :
    decode (.decode g) = Instr.ofCategory (g.len.extractLsb' 0 1) (channelOf g.b0) g.b1 g.b2 cat := by
  obtain ⟨_, hl, _, _, hc, hp, hq⟩ := g.word_fields
  simp only [decode, decodeInWord, categoryOfWord_word, if_pos hlen, hcat, hl, hc, hp, hq]

/-- Lines that match no row decode to the default row with all their fields (R91). -/
theorem decode_of_no_row {g : InLines} (h : categoryOfWord g.word = none) :
    decode (.decode g) = .fail g.len g.b0 g.b1 g.b2 := by
  obtain ⟨hlen, _, _, hb0, _, hp, hq⟩ := g.word_fields
  simp only [decode, decodeInWord, h, hlen, hb0, hp, hq]

/-- The lines of a category's operation: `in_len` 2 or 3 and the category's status byte (R42, R44). -/
theorem encode_ofCategory (l : Bit) (c : Nibble) (p q : Byte) (cat : Category) :
    encode (Instr.ofCategory l c p q cat) = .decode { len := 1#1 ++ l, b0 := statusByte cat c, b1 := p, b2 := q } := by
  cases cat <;> rfl

theorem wf_ofCategory (l : Bit) (c : Nibble) (p q : Byte) (cat : Category) :
    (Instr.ofCategory l c p q cat).wf = true := by
  cases cat <;> rfl

theorem long_len_bits : ∀ l : Bit, (1#1 ++ l).extractLsb' 1 1 = 1#1 ∧ (1#1 ++ l).extractLsb' 0 1 = l := by decide

theorem decode_encode_ofCategory (l : Bit) (c : Nibble) (p q : Byte) (cat : Category) :
    decode (encode (Instr.ofCategory l c p q cat)) = Instr.ofCategory l c p q cat := by
  obtain ⟨hlen, hl⟩ := long_len_bits l
  have hdecode := decode_of_classify (g := ⟨1#1 ++ l, statusByte cat c, p, q⟩) hlen (classify_statusByte cat c)
  rw [encode_ofCategory, hdecode, hl, ofCategory_statusByte]

/-- An operation with an IN26 row of its own is the operation of that row's category. -/
theorem eq_ofCategory {i : Instr} {cat : Category} (h : i.category? = some cat) :
    ∃ l c p q, i = Instr.ofCategory l c p q cat := by
  cases i with
  | noteOff l c p q | noteOn l c p q | polyAftertouch l c p q | controlChange l c p q | programChange l c p q
  | channelAftertouch l c p q | pitchBend l c p q =>
    obtain rfl := Option.some.inj h
    exact ⟨l, c, p, q, rfl⟩
  | tuneRequest l p q | timingClock l p q | start l p q | midiContinue l p q | stop l p q | activeSensing l p q
  | systemReset l p q =>
    obtain rfl := Option.some.inj h
    exact ⟨l, 0#4, p, q, rfl⟩
  | fail | rbMake7 | rbAnd7 | rbOr7 | rbXor7 | rbMake3 | rbAnd3 | rbOr3 | rbXor3 | rbEq7 | rbEq3 => cases h

/-- Settles O14: an operation of a category is read back from its status byte, the default row from all its lines, and an
RB operation from its select. -/
theorem decodeInvertsEncode : Obligations.DecodeInvertsEncode := by
  intro i hwf
  cases hcat : i.category? with
  | some cat =>
    obtain ⟨l, c, p, q, rfl⟩ := eq_ofCategory hcat
    exact decode_encode_ofCategory l c p q cat
  | none =>
    cases i with
    | fail len st p q => exact decode_of_no_row (Laws.EncodesItsRow.fail len st p q hwf)
    | rbMake7 | rbAnd7 | rbOr7 | rbXor7 | rbMake3 | rbAnd3 | rbOr3 | rbXor3 | rbEq7 | rbEq3 => rfl
    | noteOff | noteOn | polyAftertouch | controlChange | programChange | channelAftertouch | pitchBend
    | tuneRequest | timingClock | start | midiContinue | stop | activeSensing | systemReset => cases hcat

theorem bit_cases : ∀ w : Bit, w = 0#1 ∨ w = 1#1 := by decide

theorem rbOp_cases : ∀ op : BitVec 2, op = 0b00#2 ∨ op = 0b01#2 ∨ op = 0b10#2 ∨ op = 0b11#2 := by decide

theorem encode_decode_select (r : RbLines) :
    (decode (.select r)).wf = true ∧ encode (decode (.select r)) = .select r := by
  obtain ⟨w, op, a, b⟩ := r
  rcases bit_cases w with rfl | rfl <;> rcases rbOp_cases op with rfl | rfl | rfl | rfl <;> exact ⟨rfl, rfl⟩

theorem encode_decode_equality (r : RbLines) :
    (decode (.equality r)).wf = true ∧ encode (decode (.equality r)) = .equality r := by
  obtain ⟨w, op, a, b⟩ := r
  rcases bit_cases w with rfl | rfl <;> exact ⟨rfl, rfl⟩

/-- Lines that match no other row are lines the default row stands for (R91). -/
theorem wf_fail_of_no_row {g : InLines} (h : categoryOfWord g.word = none) :
    (Instr.fail g.len g.b0 g.b1 g.b2).wf = true := by
  rw [categoryOfWord_word] at h
  simp only [Instr.wf, Bool.or_eq_true, decide_eq_true_eq, Option.isNone_iff_eq_none]
  by_cases hlen : g.len.extractLsb' 1 1 = 1#1
  · exact .inr (by rwa [if_pos hlen] at h)
  · exact .inl ((bit_cases _).resolve_right hlen)

theorem classify_of_row {g : InLines} {cat : Category} (h : categoryOfWord g.word = some cat) :
    g.len.extractLsb' 1 1 = 1#1 ∧ classify g.b0 = some cat := by
  rw [categoryOfWord_word] at h
  split at h
  · next hlen => exact ⟨hlen, h⟩
  · cases h

theorem encode_decode_lines (g : InLines) :
    (decode (.decode g)).wf = true ∧ encode (decode (.decode g)) = .decode g := by
  cases hrow : categoryOfWord g.word with
  | none =>
    rw [decode_of_no_row hrow]
    exact ⟨wf_fail_of_no_row hrow, rfl⟩
  | some cat =>
    obtain ⟨hlen, hcat⟩ := classify_of_row hrow
    rw [decode_of_classify hlen hcat, encode_ofCategory, statusByte_of_classify g.b0 cat hcat, long_len_eq _ hlen]
    exact ⟨wf_ofCategory _ _ _ _ _, rfl⟩

/-- Settles O15, one lemma for each of the three kinds of presentation. -/
theorem encodeInvertsDecode : Obligations.EncodeInvertsDecode := by
  intro r
  cases r with
  | decode g => exact encode_decode_lines g
  | select r => exact encode_decode_select r
  | equality r => exact encode_decode_equality r

/-! ### The opcode table's rows and the classifier -/

/-- A packed word is the word of the lines it stands for (R44). -/
theorem inWord_ofWord (w : InWord) : (InLines.ofWord w).word = w := by
  apply BitVec.eq_of_getLsbD_eq
  intro i hi
  simp only [InLines.ofWord, InLines.word, BitVec.getLsbD_append, BitVec.getLsbD_extractLsb']
  interval_cases i <;> rfl

/-- A field of a field is a field of the whole. -/
theorem extractLsb'_of_extractLsb' {n i j k l : Nat} (v : BitVec n) (h : k + l ≤ j) :
    (v.extractLsb' i j).extractLsb' k l = v.extractLsb' (i + k) l := by
  apply BitVec.eq_of_getLsbD_eq
  intro b hb
  simp [hb, Nat.add_assoc, show k + b < j by omega]

/-- The top nibble of the status byte is `IN[23:20]` (R42, R44). -/
theorem inWord_statusNibble (g : InLines) : g.word.extractLsb' 20 4 = statusNibble g.b0 := by
  obtain ⟨_, _, _, hb0, _⟩ := g.word_fields
  rw [statusNibble, ← hb0, extractLsb'_of_extractLsb' g.word (by decide)]

theorem isChannelVoice_of_classify {b : Byte} {cat : Category} (h : classify b = some cat) :
    isChannelVoice cat = true ↔ statusNibble b ≠ 0xF#4 := by
  rw [← statusByte_of_classify b cat h]
  exact isChannelVoice_iff_statusNibble cat _

/-- Settles O18: a word is the word of its lines, whose row is the category of their status byte. -/
theorem opcodeTableAgreesWithClassifier : Obligations.OpcodeTableAgreesWithClassifier := by
  intro w
  obtain ⟨g, rfl⟩ : ∃ g : InLines, g.word = w := ⟨_, inWord_ofWord w⟩
  obtain ⟨_, _, hlen, hb0, _⟩ := g.word_fields
  rw [hlen, hb0, inWord_statusNibble]
  exact ⟨categoryOfWord_word g, fun cat h => isChannelVoice_of_classify (classify_of_row h).2⟩

/-! ### Words of the opcode table -/

/-- A packed input word, read as a number of more than 8 bits, asks for the decode of its lines (log entry 9). -/
theorem requestOfTableWord_inWord (g : InLines) : requestOfTableWord 32 g.word.toNat = .ok (.decode g) := by
  rw [requestOfTableWord, if_neg (by decide), if_pos g.word.isLt, BitVec.ofNat_toNat, BitVec.setWidth_eq,
    InLines.ofWord_word]

/-- A select word asks for its select, with both operands 0 (log entry 9). -/
theorem requestOfTableWord_select : ∀ (w : Bit) (op : BitVec 2),
    requestOfTableWord 8 (w ++ op).toNat = .ok (.select { w := w, op := op, a := 0#8, b := 0#8 }) := by
  decide

theorem decodeTableWord_of_ok {nbits w : Nat} {q : Request} (h : requestOfTableWord nbits w = .ok q) :
    decodeTableWord nbits w = some (decode q) := by
  rw [decodeTableWord, h]

/-- What a word of the table asks for is what the next step runs, held stable (log entry 1). -/
theorem step_withFetchWord_of_ok {nbits w : Nat} {q : Request} (h : requestOfTableWord nbits w = .ok q) (s : State) :
    step (s.withFetchWord nbits w) = exec (decode q) (s.present q) := by
  rw [State.withFetchWord, State.presentTableWord, h]
  exact (step_presentFirst s _).trans (sampleResult_stable q _)

/-- Settles O16: the request of the word names the lines. -/
theorem tableWordRunsItsOperation : Obligations.TableWordRunsItsOperation := by
  intro s
  refine ⟨fun g => ?_, fun w op => ?_⟩
  · have h := requestOfTableWord_inWord g
    exact ⟨decodeTableWord_of_ok h, step_withFetchWord_of_ok h s⟩
  · have h := requestOfTableWord_select w op
    exact ⟨decodeTableWord_of_ok h, step_withFetchWord_of_ok h s⟩

/-- A check that answers or refuses refuses exactly where it fails. -/
theorem ite_ok_eq_error_iff {ε α : Type} {c : Prop} [Decidable c] {a : α} {e e' : ε} :
    (if c then .ok a else .error e : Except ε α) = .error e' ↔ e' = e ∧ ¬ c := by
  by_cases h : c <;> simp [h, eq_comm]

theorem requestOfTableWord_in_error_iff (w : Nat) (e : DecodeRejection) :
    requestOfTableWord 32 w = .error e ↔ e = .inWordTooWide ∧ 2 ^ 26 ≤ w := by
  rw [requestOfTableWord, if_neg (by decide), ite_ok_eq_error_iff, not_lt]

theorem requestOfTableWord_select_error_iff (w : Nat) (e : DecodeRejection) :
    requestOfTableWord 8 w = .error e ↔ e = .selectTooWide ∧ 8 ≤ w := by
  rw [requestOfTableWord, if_pos (by decide), ite_ok_eq_error_iff, not_lt]

theorem decodeTableWord_eq_none_iff (nbits w : Nat) :
    decodeTableWord nbits w = none ↔ ∃ e, requestOfTableWord nbits w = .error e := by
  rw [decodeTableWord]
  cases requestOfTableWord nbits w <;> simp

/-- Settles O17: a refusal is by the one name of its width, and a word decodes to nothing exactly when it is refused. -/
theorem tableWordsAreRefusedExactlyWhenTooWide : Obligations.TableWordsAreRefusedExactlyWhenTooWide := by
  intro w
  simp only [decodeTableWord_eq_none_iff, requestOfTableWord_in_error_iff, requestOfTableWord_select_error_iff,
    true_and, exists_eq_left, and_self]

/-- Settles O13: closed words, evaluated. -/
theorem writtenOutWordsDecode : Obligations.WrittenOutWordsDecode := by
  refine ⟨?_, ?_, ?_, ?_, ?_, ?_, ?_⟩ <;> decide

/-! ### Steps and their outputs -/

/-- Settles O5, by induction on the number of operations: every step answers a next state. -/
theorem noRunEverStops : Obligations.NoRunEverStops := by
  intro k
  induction k with
  | zero => exact fun s => ⟨s, rfl⟩
  | succ k ih =>
    intro s
    rw [runSteps, step_eq]
    exact ih _

/-- Settles O41: both steps settle the RB unit on the same lines. -/
theorem selectAndEqualityShareTheirLines : Obligations.SelectAndEqualityShareTheirLines := by
  intro s r
  exact ⟨_, step_presentFirst_of_stable s rfl, _, step_presentFirst_of_stable s rfl, rfl, rfl, rfl, rfl, rfl⟩

/-! ### The tag of the word a status byte gives -/

@[simp] theorem wordOf_tag (t c : Nibble) (f1 f2 : Byte) : (wordOf t c f1 f2).extractLsb' 20 4 = t :=
  (wordOf_fields t c f1 f2).1

@[simp] theorem wordOf_channel (t c : Nibble) (f1 f2 : Byte) : (wordOf t c f1 f2).extractLsb' 16 4 = c :=
  (wordOf_fields t c f1 f2).2.1

@[simp] theorem wordOf_field1 (t c : Nibble) (f1 f2 : Byte) : (wordOf t c f1 f2).extractLsb' 8 8 = f1 :=
  (wordOf_fields t c f1 f2).2.2.1

@[simp] theorem wordOf_field2 (t c : Nibble) (f1 f2 : Byte) : (wordOf t c f1 f2).extractLsb' 0 8 = f2 :=
  (wordOf_fields t c f1 f2).2.2.2

theorem packMessage_tag (c : Nibble) (d1 d2 : Byte) (cat : Category) :
    (packMessage (messageOf c d1 d2 cat)).extractLsb' 20 4 = tagOf cat := by
  cases cat <;> exact wordOf_tag _ _ _ _

theorem packMessage_channel (c : Nibble) (d1 d2 : Byte) {cat : Category} (h : isChannelVoice cat = true) :
    (packMessage (messageOf c d1 d2 cat)).extractLsb' 16 4 = c := by
  cases cat with
  | noteOff | noteOn | polyphonicAftertouch | controlChange | programChange | channelAftertouch | pitchBend =>
    exact wordOf_channel _ _ _ _
  | tuneRequest | timingClock | start | stop | midiContinue | activeSensing | systemReset => cases h

theorem decodePort_of_unrecognized {g : InLines} (h : classify g.b0 = none) : decodePort g = 0x000000#24 := by
  rw [decodePort_eq_pack, decodeLines, h, Option.map_none, ite_self]
  rfl

theorem decodePort_of_classify {g : InLines} {cat : Category} (hlen : g.len.extractLsb' 1 1 = 1#1)
    (h : classify g.b0 = some cat) :
    decodePort g = packMessage (messageOf (channelOf g.b0) g.b1 (data2OfLen g.len g.b2) cat) := by
  rw [decodePort_eq_pack, decodeLines, if_pos hlen, h]
  rfl

theorem long_len_of_le : ∀ len : BitVec 2, 2#2 ≤ len → len.extractLsb' 1 1 = 1#1 := by decide

theorem classify_data_byte : ∀ b : Byte, b < 0x80#8 → classify b = none := by decide

theorem classify_unrecognized_system :
    ∀ b ∈ [0xF0#8, 0xF1#8, 0xF2#8, 0xF3#8, 0xF4#8, 0xF5#8, 0xF7#8, 0xF9#8, 0xFD#8], classify b = none := by decide

/-- The tag of a channel-voice category is seven below the nibble that selects it (R49, R70). -/
theorem classify_voice_byte : ∀ b : Byte, 0x80#8 ≤ b → b < 0xF0#8 → ∃ cat ∈ classify b,
    isChannelVoice cat = true ∧ (tagOf cat).toNat = (statusNibble b).toNat - 7 := by decide

theorem decodePort_tag {g : InLines} (hlen : g.len.extractLsb' 1 1 = 1#1) (cat : Category)
    (h : classify g.b0 = some cat) : (decodePort g).extractLsb' 20 4 = tagOf cat := by
  rw [decodePort_of_classify hlen h, packMessage_tag]

theorem decodePort_of_voice_byte {g : InLines} (hlen : g.len.extractLsb' 1 1 = 1#1) (hlow : 0x80#8 ≤ g.b0)
    (hhigh : g.b0 < 0xF0#8) :
    ((decodePort g).extractLsb' 20 4).toNat = (statusNibble g.b0).toNat - 7 ∧
    (decodePort g).extractLsb' 16 4 = channelOf g.b0 := by
  obtain ⟨cat, hcat, hvoice, htag⟩ := classify_voice_byte g.b0 hlow hhigh
  rw [decodePort_of_classify hlen hcat, packMessage_tag, packMessage_channel _ _ _ hvoice]
  exact ⟨htag, rfl⟩

/-- Settles O20: the word is DECODE of the lines, whose tag is the code of their status byte's category. -/
theorem statusByteSelectsTheTag : Obligations.StatusByteSelectsTheTag := by
  intro s t g hlen h
  have hlong := long_len_of_le g.len hlen
  have hw : t.outWord = decodePort g := by
    rw [eq_of_stable_step rfl h]
    rfl
  rw [hw]
  refine ⟨fun hb => decodePort_of_unrecognized (classify_data_byte _ hb), decodePort_of_voice_byte hlong,
    fun hb => decodePort_of_unrecognized (classify_unrecognized_system _ hb), ?_, ?_, ?_, ?_, ?_, ?_, ?_⟩
  · exact fun hb => decodePort_tag hlong .tuneRequest (congrArg classify hb)
  · exact fun hb => decodePort_tag hlong .timingClock (congrArg classify hb)
  · exact fun hb => decodePort_tag hlong .start (congrArg classify hb)
  · exact fun hb => decodePort_tag hlong .midiContinue (congrArg classify hb)
  · exact fun hb => decodePort_tag hlong .stop (congrArg classify hb)
  · exact fun hb => decodePort_tag hlong .activeSensing (congrArg classify hb)
  · exact fun hb => decodePort_tag hlong .systemReset (congrArg classify hb)

/-! ### UNPACK: its refusals, and the words it accepts -/

/-- The classes of tags that R52 tells apart. -/
theorem tag_classes : ∀ tag : Nibble,
    tag = 0x0#4 ∨ tag ∈ [0x1#4, 0x2#4, 0x3#4, 0x7#4] ∨ tag = 0x4#4 ∨ tag ∈ [0x5#4, 0x6#4] ∨
    tag ∈ [0x8#4, 0x9#4, 0xA#4, 0xB#4, 0xC#4, 0xD#4, 0xE#4] ∨ tag = 0xF#4 := by decide

theorem unpackSystem_refuses_iff (rest : BitVec 20) (m : Message) :
    (∃ r, unpackSystem rest m = .error r) ↔ rest ≠ 0#20 := by
  simp only [unpackSystem, ite_ok_eq_error_iff, exists_eq_left, ne_eq]

theorem bit_eq_one_iff : ∀ b : Bit, b = 1#1 ↔ ¬ b = 0#1 := by decide

/-- Bit 7 of F1 is bit 15 of the word (R48). -/
theorem field1_bit7 (w : OutWord) : (w.extractLsb' 8 8).extractLsb' 7 1 = w.extractLsb' 15 1 :=
  extractLsb'_of_extractLsb' w (by decide)

/-- Settles O34, class by class of R52: no bit set besides tag 0 (`None`), every word accepted, a clear bit 7 in F1, a
clear F2, no bit set besides a system tag, and no word accepted. -/
theorem unpackRefusesExactlyUndrivenWords : Obligations.UnpackRefusesExactlyUndrivenWords := by
  intro w
  obtain hnone | hdata | hcontrol | hone | hsystem | hreserved := tag_classes (w.extractLsb' 20 4)
  · simp [neverDriven, unpack, hnone, ite_ok_eq_error_iff]
  · simp only [List.mem_cons, List.not_mem_nil, or_false] at hdata
    rcases hdata with h | h | h | h <;> simp [neverDriven, unpack, h]
  · simp [neverDriven, unpack, hcontrol, ite_ok_eq_error_iff, field1_bit7, bit_eq_one_iff]
  · simp only [List.mem_cons, List.not_mem_nil, or_false] at hone
    rcases hone with h | h <;> simp [neverDriven, unpack, h, ite_ok_eq_error_iff]
  · simp only [List.mem_cons, List.not_mem_nil, or_false] at hsystem
    rcases hsystem with h | h | h | h | h | h | h <;> simp [neverDriven, unpack, h, unpackSystem_refuses_iff]
  · simp [neverDriven, unpack, hreserved]

/-- `zext_8` of the control field leaves bit 7 clear and the field in the seven below (R11, R79). -/
theorem zext8_bits : ∀ k : BitVec 7, (zext8 k).extractLsb' 7 1 = 0#1 ∧ (zext8 k).extractLsb' 0 7 = k := by decide

/-- UNPACK reads back what PACK wrote (R96). -/
theorem unpack_pack (m : Option Message) : unpack (pack m) = .ok m := by
  cases m with
  | none => rfl
  | some m =>
    cases m with
    | controlChange c k v => simp [pack, packMessage, unpack, tagOf, zext8_bits k]
    | noteOff | noteOn | polyphonicAftertouch | programChange | channelAftertouch | pitchBend =>
      simp [pack, packMessage, unpack, tagOf]
    | tuneRequest | timingClock | start | stop | midiContinue | activeSensing | systemReset => rfl

theorem neverDriven_pack (m : Option Message) : neverDriven (pack m) = false := by
  refine Bool.eq_false_iff.2 fun h => ?_
  obtain ⟨r, hr⟩ := (unpackRefusesExactlyUndrivenWords (pack m)).1 h
  rw [unpack_pack] at hr
  cases hr

/-- A word that UNPACK reads as a message has a tag (R49, R95). -/
theorem tag_ne_zero_of_unpack_some {w : OutWord} {m : Message} (h : unpack w = .ok (some m)) :
    w.extractLsb' 20 4 ≠ 0#4 := by
  intro htag
  rw [unpack, if_pos htag] at h
  split at h <;> cases h

/-- `out_valid` tells whether there is a message (R48, R94). -/
theorem outValidOf_pack (m : Option Message) : outValidOf (pack m) = 1#1 ↔ m.isSome = true := by
  cases m with
  | none => decide
  | some m => simp [outValidOf, tag_ne_zero_of_unpack_some (unpack_pack (some m))]

/-- Settles O35: the word driven is PACK of the decode, and `out_valid` follows it. -/
theorem drivenWordIsThePackedDecode : Obligations.DrivenWordIsThePackedDecode := by
  intro s fill bytes
  obtain ⟨t, ht, hw⟩ := stepOnGroup_drives s fill bytes
  have hv : t.outValid = outValidOf (pack (decodeGroup bytes)) := by
    rw [← hw, eq_of_stable_step rfl ht]
    rfl
  refine ⟨t, ht, ?_⟩
  simp only [hw, hv]
  exact ⟨neverDriven_pack _, unpack_pack _, outValidOf_pack _⟩

end Sys2Proof.Machine
end

section
/-! PROOFS of the family 40_restricted_byte. Masking with `rbMask w` is keeping the low `rbWidth w` bits
(`and_rbMask_eq_low`), so every select row is one statement about `rbResult` at either width (`select_row`); truncation
distributes over AND, OR and XOR because masking does (R67). -/

namespace Sys2Proof.Machine

/-! ### The mask of a width keeps its low bits -/

theorem rbMask_getElem : ∀ (w : Bit) (i : Nat) (hi : i < 8), (rbMask w)[i] = decide (i < rbWidth w) := by decide

/-- Truncation: the low N bits zero-extended (R55, R56, R57). -/
theorem and_rbMask_eq_low (w : Bit) (v : Byte) : v &&& rbMask w = (v.extractLsb' 0 (rbWidth w)).setWidth 8 := by
  ext i hi
  simp [rbMask_getElem, BitVec.getLsbD_eq_getElem hi, Bool.and_comm]

theorem rbWidth_le : ∀ w : Bit, rbWidth w ≤ 8 := by decide

/-- Truncated bytes are equal exactly when their low N bits are. -/
theorem and_rbMask_eq_iff (w : Bit) (a b : Byte) :
    a &&& rbMask w = b &&& rbMask w ↔ a.extractLsb' 0 (rbWidth w) = b.extractLsb' 0 (rbWidth w) := by
  rw [and_rbMask_eq_low, and_rbMask_eq_low]
  refine ⟨fun h => ?_, fun h => by rw [h]⟩
  have hlow := congrArg (BitVec.setWidth (rbWidth w)) h
  simpa only [BitVec.setWidth_setWidth_of_le _ (rbWidth_le w), BitVec.setWidth_eq] using hlow

/-- `rb_eq` compares the low N bits (R64, R65). -/
theorem rbEqOf_eq_low (w : Bit) (a b : Byte) :
    rbEqOf w a b = if a.extractLsb' 0 (rbWidth w) = b.extractLsb' 0 (rbWidth w) then 1#1 else 0#1 := by
  simp only [rbEqOf, and_rbMask_eq_iff]

/-! ### What a select and an equality operation write -/

theorem State.driveSelect_selectFrame (s : State) (w : Bit) (y a b : Byte) : SelectFrame s (s.driveSelect w y a b) :=
  ⟨s.driveSelect_sameInputs w y a b, rfl, rfl⟩

theorem State.driveEquality_equalityFrame (s : State) (w : Bit) (a b : Byte) :
    EqualityFrame s (s.driveEquality w a b) :=
  ⟨⟨s.driveEquality_sameInputs w a b, rfl, rfl⟩, rfl⟩

/-- The row of a select, at either width: it is decoded from its lines, and its result on them is `f` truncated. -/
theorem select_row {w : Bit} {op : BitVec 2} {mk : Byte → Byte → Instr} {f : Byte → Byte → Byte}
    (hdecode : ∀ a b, decode (.select ⟨w, op, a, b⟩) = mk a b)
    (hresult : ∀ a b, rbResult ⟨w, op, a, b⟩ = f a b &&& rbMask w) (s : State) (a b : Byte) :
    decode (.select ⟨w, op, a, b⟩) = mk a b ∧
    Completes (exec (mk a b) s) fun u =>
      u.rbY = ((f a b).extractLsb' 0 (rbWidth w)).setWidth 8 ∧
      u.rbEq = (if a.extractLsb' 0 (rbWidth w) = b.extractLsb' 0 (rbWidth w) then 1#1 else 0#1) ∧
      SelectFrame s u := by
  refine ⟨hdecode a b, _, by rw [← hdecode, exec_select], ?_, ?_, s.driveSelect_selectFrame _ _ _ _⟩
  · rw [State.driveSelect_rbY, hresult, and_rbMask_eq_low]
  · rw [State.driveSelect_rbEq, rbEqOf_eq_low]

/-- The row of an equality operation, at either width. -/
theorem equality_row (s : State) (r : RbLines) :
    Completes (exec (decode (.equality r)) s) fun u =>
      u.rbEq = (if r.a.extractLsb' 0 (rbWidth r.w) = r.b.extractLsb' 0 (rbWidth r.w) then 1#1 else 0#1) ∧
      EqualityFrame s u :=
  ⟨_, exec_equality r s, rbEqOf_eq_low r.w r.a r.b, s.driveEquality_equalityFrame r.w r.a r.b⟩

/-! ### Truncating the operands first -/

theorem rbMake_rbMake (w : Bit) (a : Byte) : rbMake w (rbMake w a) = rbMake w a := by
  simp only [rbMake, BitVec.and_assoc, BitVec.and_self]

theorem rbAnd_rbMake (w : Bit) (a b : Byte) : rbAnd w (rbMake w a) (rbMake w b) = rbAnd w a b := by
  ext i hi
  cases h : (rbMask w)[i] <;> simp [rbAnd, rbMake, h]

theorem rbOr_rbMake (w : Bit) (a b : Byte) : rbOr w (rbMake w a) (rbMake w b) = rbOr w a b := by
  ext i hi
  cases h : (rbMask w)[i] <;> simp [rbOr, rbMake, h]

theorem rbXor_rbMake (w : Bit) (a b : Byte) : rbXor w (rbMake w a) (rbMake w b) = rbXor w a b := by
  ext i hi
  cases h : (rbMask w)[i] <;> simp [rbXor, rbMake, h]

/-- No operation of the table of R53 reads an operand above the width. -/
theorem rbResult_rbMake (r : RbLines) :
    rbResult { r with a := rbMake r.w r.a, b := rbMake r.w r.b } = rbResult r := by
  simp only [rbResult, rbMake_rbMake, rbAnd_rbMake, rbOr_rbMake, rbXor_rbMake]

/-- `rb_eq` is equality of the operands as MAKE truncates them. -/
theorem rbEqOf_eq_rbMake (w : Bit) (a b : Byte) :
    rbEqOf w a b = if rbMake w a = rbMake w b then 1#1 else 0#1 := rfl

theorem rbEqOf_rbMake (w : Bit) (a b : Byte) : rbEqOf w (rbMake w a) (rbMake w b) = rbEqOf w a b := by
  simp only [rbEqOf_eq_rbMake, rbMake_rbMake]

/-- A result is truncated already, so truncating it again gives it back (R67). -/
theorem rbMake_rbResult (r : RbLines) : rbMake r.w (rbResult r) = rbResult r := by
  obtain ⟨v, hv⟩ := rbResult_truncates r
  rw [hv]
  exact rbMake_rbMake r.w v

/-- The 3-bit mask is inside the 7-bit one. -/
theorem rbMake3_rbMake7 (a : Byte) : rbMake 1#1 (rbMake 0#1 a) = rbMake 1#1 a :=
  BitVec.and_assoc a (rbMask 0#1) (rbMask 1#1)

/-! ### The statements -/

/-- Settles O38: each select decodes by the table of R53, and its result is its operation masked to 7 bits. -/
theorem sevenBitSelectsTruncate : Obligations.SevenBitSelectsTruncate :=
  ⟨select_row (fun _ _ => rfl) (fun _ _ => rfl), select_row (fun _ _ => rfl) (fun _ _ => rfl),
    select_row (fun _ _ => rfl) (fun _ _ => rfl), select_row (fun _ _ => rfl) (fun _ _ => rfl)⟩

/-- Settles O39: the same rows with the mask of 3 bits. -/
theorem threeBitSelectsTruncate : Obligations.ThreeBitSelectsTruncate :=
  ⟨select_row (fun _ _ => rfl) (fun _ _ => rfl), select_row (fun _ _ => rfl) (fun _ _ => rfl),
    select_row (fun _ _ => rfl) (fun _ _ => rfl), select_row (fun _ _ => rfl) (fun _ _ => rfl)⟩

/-- Settles O40: both widths are the one equality row. -/
theorem equalityComparesTruncatedOperands : Obligations.EqualityComparesTruncatedOperands := by
  intro s op a b
  exact ⟨⟨rfl, equality_row s ⟨0#1, op, a, b⟩⟩, ⟨rfl, equality_row s ⟨1#1, op, a, b⟩⟩⟩

/-- Settles O43: masking distributes over every operation, and the masks nest. -/
theorem truncationCommutesWithEverySelect : Obligations.TruncationCommutesWithEverySelect := by
  intro r
  exact ⟨rbResult_rbMake r, rbEqOf_rbMake r.w r.a r.b, rbMake_rbResult r, rbMake3_rbMake7 r.a⟩

/-- Settles O44: a stable step ends with both units settled on their lines. -/
theorem stableStepSettlesEveryOutput : Obligations.StableStepSettlesEveryOutput := by
  intro s t p hp h
  rw [eq_of_stable_step hp h]
  exact State.settle_linesSettled _

/-- Settles O2: DECODE of an empty group is the `None` word, MAKE7 of 0 is 0, and nothing is pending. -/
theorem resetIsSettled : Obligations.ResetIsSettled where
  lines := { outWord := by decide, outValid := by decide, rbY := by decide, rbEq := by decide }
  producer := fun _ hp => absurd hp List.not_mem_nil

end Sys2Proof.Machine
end

section
/-! PROOFS of the family 41_classify. A word fixes the bits of both rows that accept it, so two such rows agree on the
bits they both test (`pattern_agree_of_accepts`), and no two rows of the table do (R70). -/

namespace Sys2Proof.Machine

theorem accepts_iff {r : InRow} {w : InWord} : r.accepts w = true ↔ w &&& r.mask = r.pattern :=
  beq_iff_eq

/-- The bits both masks cover are the word's, whichever row they are read from. -/
theorem pattern_agree_of_accepts {r r' : InRow} {w : InWord} (h : r.accepts w = true) (h' : r'.accepts w = true) :
    r.pattern &&& r'.mask = r'.pattern &&& r.mask := by
  calc r.pattern &&& r'.mask
      = w &&& r.mask &&& r'.mask := by rw [accepts_iff.mp h]
    _ = w &&& r'.mask &&& r.mask := by rw [BitVec.and_assoc, BitVec.and_comm r.mask, ← BitVec.and_assoc]
    _ = r'.pattern &&& r.mask := by rw [accepts_iff.mp h']

/-- Every two different rows of the table differ in a bit that both test (R70), over the 14 × 14 pairs. -/
theorem inTable_eq_of_pattern_agree :
    ∀ r ∈ inTable, ∀ r' ∈ inTable, r.pattern &&& r'.mask = r'.pattern &&& r.mask → r = r' := by
  decide

/-- Settles O19: rows that accept one word agree on the bits both test, and only equal rows of the table do. -/
theorem opcodeRowsAreDisjoint : Obligations.OpcodeRowsAreDisjoint :=
  fun _ r hr r' hr' h h' => inTable_eq_of_pattern_agree r hr r' hr' (pattern_agree_of_accepts h h')

end Sys2Proof.Machine
end

section
/-! PROOFS of the family 42_channel_voice. Every channel-voice row is one statement about its category (`voice_row`): a
decode meaning drives the word of its category's message, a short group drives the `None` word (R75), and what is left of
a row is its status nibble and the four fields of its word. -/

namespace Sys2Proof.Machine

/-! ### What a decode leaves -/

theorem State.driveMessage_decodeFrame (s : State) (m : Option Message) : DecodeFrame s (s.driveMessage m) :=
  ⟨s.driveOut_sameInputs (pack m), rfl, rfl⟩

/-- A decode meaning drives the word of its category's message and `out_valid` 1, and nothing else (R48, R94). -/
theorem exec_ofCategory_completes (l : Bit) (c : Nibble) (p q : Byte) (cat : Category) (s : State) :
    Completes (exec (Instr.ofCategory l c p q cat) s) fun u =>
      u.outWord = packMessage (messageOf c p (data2 l q) cat) ∧ u.outValid = 1#1 ∧ DecodeFrame s u :=
  ⟨_, exec_ofCategory l c p q cat s, rfl, (outValidOf_pack (some _)).2 rfl, s.driveMessage_decodeFrame _⟩

theorem short_len_of_lt : ∀ len : BitVec 2, len < 2#2 → ¬ len.extractLsb' 1 1 = 1#1 := by decide

/-- A group of fewer than two bytes drives the `None` word, whatever its status byte (R75, R91). -/
theorem exec_decode_short {g : InLines} (hlen : g.len < 2#2) (s : State) :
    Completes (exec (decode (.decode g)) s) fun u =>
      u.outWord = 0x000000#24 ∧ u.outValid = 0#1 ∧ DecodeFrame s u := by
  refine ⟨s.driveMessage none, ?_, rfl, rfl, s.driveMessage_decodeFrame none⟩
  rw [exec_decode_message, decodeLines_of_short rfl (short_len_of_lt g.len hlen)]

/-- A recognized group decodes to the operation of its category (R42, R44). -/
theorem decode_statusByte (l : Bit) (c : Nibble) (p q : Byte) (cat : Category) :
    decode (.decode { len := 1#1 ++ l, b0 := statusByte cat c, b1 := p, b2 := q }) = Instr.ofCategory l c p q cat := by
  rw [← encode_ofCategory, decode_encode_ofCategory]

/-! ### One row per category -/

theorem wordOf_hasFields (t c : Nibble) (f1 f2 : Byte) : HasFields (wordOf t c f1 f2) t c f1 f2 :=
  ⟨wordOf_tag t c f1 f2, wordOf_channel t c f1 f2, wordOf_field1 t c f1 f2, wordOf_field2 t c f1 f2⟩

/-- The row of a channel-voice category: `t` is the status nibble that selects it, and its word holds `first` of data1 in
F1 and `second` of data2 in F2 (R48, R75). -/
theorem voice_row (cat : Category) {t tag : Nibble} {first second : Byte → Byte}
    (hstatus : ∀ c, statusByte cat c = t ++ c)
    (hword : ∀ c d1 d2, packMessage (messageOf c d1 d2 cat) = wordOf tag c (first d1) (second d2)) :
    Slice0.VoiceRow (fun l c p q => Instr.ofCategory l c p q cat) t tag first second := by
  intro s c p q
  refine ⟨fun l => ⟨?_, ?_⟩, fun len hlen => exec_decode_short hlen s⟩
  · rw [← hstatus, decode_statusByte]
  · refine (exec_ofCategory_completes l c p q cat s).mono fun u ⟨hw, hvalid, hframe⟩ => ⟨?_, hvalid, hframe⟩
    rw [hw, hword]
    exact wordOf_hasFields tag c (first p) (second (data2 l q))

/-- The `control` field in F1 is the low 7 bits of data1 (R11, R79). -/
theorem zext8_controlOf_eq_low (d : Byte) : zext8 (controlOf d) = (d.extractLsb' 0 7).setWidth 8 := by
  rw [zext8_controlOf]
  exact (BitVec.setWidth_eq_append (by decide)).symm

/-! ### The statements -/

/-- Settles O26: both rows put data1 in F1 and data2 in F2. -/
theorem noteOnAndPitchBendPassBothBytes : Obligations.NoteOnAndPitchBendPassBothBytes :=
  ⟨voice_row .noteOn (fun _ => rfl) (fun _ _ _ => rfl), voice_row .pitchBend (fun _ => rfl) (fun _ _ _ => rfl)⟩

/-- Settles O27: the rows of O26 at two other status nibbles, with the bytes in the order of D7. -/
theorem noteOffAndPolyAftertouchPassBothBytes : Obligations.NoteOffAndPolyAftertouchPassBothBytes :=
  ⟨voice_row .noteOff (fun _ => rfl) (fun _ _ _ => rfl),
    voice_row .polyphonicAftertouch (fun _ => rfl) (fun _ _ _ => rfl)⟩

/-- Settles O28: F1 is `control` zero-extended, which keeps the low 7 bits of data1. -/
theorem controlChangeTruncatesOnlyItsControl : Obligations.ControlChangeTruncatesOnlyItsControl :=
  voice_row .controlChange (fun _ => rfl) fun c d1 d2 =>
    congrArg (wordOf 0x4#4 c · d2) (zext8_controlOf_eq_low d1)

/-- Settles O29: both rows put data1 in F1, and no data2 in their word. -/
theorem programChangeAndChannelAftertouchIgnoreData2 : Obligations.ProgramChangeAndChannelAftertouchIgnoreData2 :=
  ⟨voice_row .programChange (fun _ => rfl) (fun _ _ _ => rfl),
    voice_row .channelAftertouch (fun _ => rfl) (fun _ _ _ => rfl)⟩

end Sys2Proof.Machine
end

section
/-! PROOFS of the family 43_system. A system byte is the status byte of a category that reads no channel and no data, so
every system row is one statement about its category (`system_row`); lines decode to the default row exactly when that
row is well formed for them; and a status byte gives back its category and its channel (`decodeGroup_statusByte`). -/

namespace Sys2Proof.Machine

/-! ### The whole decoder -/

/-- Settles O21: the values arrive and both units settle on them, the RB unit on lines that did not change. -/
theorem stepComputesDecode : Obligations.StepComputesDecode := by
  intro s g
  have hvalid : outValidOf (decodePort g) = if (decodePort g).extractLsb' 20 4 ≠ 0x0#4 then 1#1 else 0#1 :=
    (ite_not ..).symm
  exact ⟨_, step_presentFirst_of_stable s rfl, rfl, hvalid, rfl, rfl, rfl, rfl,
    fun hs => ⟨hs.rbY.symm, hs.rbEq.symm⟩, rfl⟩

/-- Settles O22: DECODE is PACK of the message on the lines, which is the decode of the byte sequence on them. -/
theorem portFormDecodesAsTheByteSequence : Obligations.PortFormDecodesAsTheByteSequence := by
  intro fill bytes
  rw [decodePort_eq_pack, decodeLines_portForm]

/-! ### The system rows and the default row -/

/-- The row of a system category: `st` is its one status byte, and its word is `w` whatever the data bytes are (R83). -/
theorem system_row (cat : Category) {st : Byte} {w : OutWord} (hstatus : ∀ c, statusByte cat c = st)
    (hword : ∀ c d1 d2, packMessage (messageOf c d1 d2 cat) = w) :
    Slice0.SystemRow (fun l p q => Instr.ofCategory l 0x0#4 p q cat) st w := by
  intro s p q
  refine ⟨fun l => ⟨?_, ?_⟩, fun len hlen => exec_decode_short hlen s⟩
  · rw [← hstatus 0x0#4, decode_statusByte]
  · exact (exec_ofCategory_completes l 0x0#4 p q cat s).mono fun u ⟨hw, hrest⟩ => ⟨hw.trans (hword ..), hrest⟩

/-- Settles O30: each of the seven categories has one status byte and one word. -/
theorem systemBytesGiveTheirSingletons : Obligations.SystemBytesGiveTheirSingletons :=
  ⟨system_row .tuneRequest (fun _ => rfl) (fun _ _ _ => rfl),
    system_row .timingClock (fun _ => rfl) (fun _ _ _ => rfl),
    system_row .start (fun _ => rfl) (fun _ _ _ => rfl),
    system_row .midiContinue (fun _ => rfl) (fun _ _ _ => rfl),
    system_row .stop (fun _ => rfl) (fun _ _ _ => rfl),
    system_row .activeSensing (fun _ => rfl) (fun _ _ _ => rfl),
    system_row .systemReset (fun _ => rfl) (fun _ _ _ => rfl)⟩

theorem short_len_iff_lt : ∀ len : BitVec 2, len.extractLsb' 1 1 = 0#1 ↔ len < 2#2 := by decide

/-- The default row stands for a group that is too short or has an unrecognized status byte (R91). -/
theorem wf_fail_iff (len : BitVec 2) (st p q : Byte) :
    (Instr.fail len st p q).wf = true ↔ len < 2#2 ∨ classify st = none := by
  simp only [Instr.wf, Bool.or_eq_true, decide_eq_true_eq, Option.isNone_iff_eq_none, short_len_iff_lt]

/-- Lines decode to the default row exactly when it stands for them: what is decoded is well formed (O15), and what is
well formed is decoded from its own lines (O14). -/
theorem decode_eq_fail_iff_wf (g : InLines) :
    decode (.decode g) = .fail g.len g.b0 g.b1 g.b2 ↔ (Instr.fail g.len g.b0 g.b1 g.b2).wf = true :=
  ⟨fun h => h ▸ (encodeInvertsDecode (.decode g)).1, decodeInvertsEncode (.fail g.len g.b0 g.b1 g.b2)⟩

/-- Settles O31: the default row is decoded where it is well formed, and it drives no message. -/
theorem failureDrivesTheNoneWordOnly : Obligations.FailureDrivesTheNoneWordOnly :=
  ⟨fun g => (decode_eq_fail_iff_wf g).trans (wf_fail_iff ..),
    fun s _ _ _ _ => ⟨s.driveMessage none, rfl, rfl, rfl, s.driveMessage_decodeFrame none⟩⟩

/-! ### The test-harness serializer -/

/-- The message of a category reads its channel from its status byte, or reads none. -/
theorem messageOf_statusByte (c : Nibble) (d1 d2 : Byte) (cat : Category) :
    messageOf (channelOf (statusByte cat c)) d1 d2 cat = messageOf c d1 d2 cat := by
  cases cat with
  | noteOff | noteOn | polyphonicAftertouch | controlChange | programChange | channelAftertouch | pitchBend =>
    simp only [statusByte, (status_fields _ c).1]
  | tuneRequest | timingClock | start | stop | midiContinue | activeSensing | systemReset => rfl

/-- A group with the status byte of a category decodes to that category's message (R93). -/
theorem decodeGroup_statusByte (cat : Category) (c : Nibble) (d1 : Byte) (rest : List Byte) :
    decodeGroup (statusByte cat c :: d1 :: rest) = some (messageOf c d1 (rest.headD 0x00#8) cat) := by
  rw [decodeGroup, classify_statusByte, Option.map_some, messageOf_statusByte]

/-- `control` gives back a 7-bit field that is sent zero-extended (R11, R79). -/
theorem controlOf_zext8 : ∀ k : BitVec 7, controlOf (zext8 k) = k := by decide

/-- Settles O37: a message's serialization begins with the status byte of its category on its channel. -/
theorem decodeInvertsTheHarnessSerializer : Obligations.DecodeInvertsTheHarnessSerializer := by
  intro m
  cases m with
  | noteOff c n v => exact decodeGroup_statusByte .noteOff c n [v]
  | noteOn c n v => exact decodeGroup_statusByte .noteOn c n [v]
  | polyphonicAftertouch c n p => exact decodeGroup_statusByte .polyphonicAftertouch c n [p]
  | controlChange c k v =>
    refine (decodeGroup_statusByte .controlChange c (zext8 k) [v]).trans ?_
    rw [messageOf, controlOf_zext8, List.headD_cons]
  | programChange c p => exact decodeGroup_statusByte .programChange c p [0x00#8]
  | channelAftertouch c p => exact decodeGroup_statusByte .channelAftertouch c p [0x00#8]
  | pitchBend c l h => exact decodeGroup_statusByte .pitchBend c l [h]
  | tuneRequest | timingClock | start | stop | midiContinue | activeSensing | systemReset => rfl

end Sys2Proof.Machine
end

section
/-! PROOFS of the family 44_message_encoder. A word is the word of its own four fields (`wordOf_fields_self`), and the
bits a message has no field for are zero in every accepted word, so PACK writes an accepted word again; the groups that
decode to a message are those whose status byte is of its category (`decodeGroup_eq_some_iff`). -/

namespace Sys2Proof.Machine

/-! ### PACK and UNPACK -/

/-- Settles O32: UNPACK is a left inverse of PACK. -/
theorem unpackInvertsPack : Obligations.UnpackInvertsPack := by
  refine ⟨unpack_pack, fun m n h => ?_⟩
  have hread : unpack (pack n) = .ok m := h ▸ unpack_pack m
  exact Except.ok.inj (hread.symm.trans (unpack_pack n))

/-- An output word is the word of its own four fields (R48). -/
theorem wordOf_fields_self (w : OutWord) :
    wordOf (w.extractLsb' 20 4) (w.extractLsb' 16 4) (w.extractLsb' 8 8) (w.extractLsb' 0 8) = w := by
  apply BitVec.eq_of_getLsbD_eq
  intro i hi
  simp only [wordOf, BitVec.getLsbD_append, BitVec.getLsbD_extractLsb']
  interval_cases i <;> simp

theorem wordOf_of_tag {w : OutWord} {t : Nibble} (h : w.extractLsb' 20 4 = t) :
    wordOf t (w.extractLsb' 16 4) (w.extractLsb' 8 8) (w.extractLsb' 0 8) = w :=
  h ▸ wordOf_fields_self w

/-- A word with no bit set in 19:0 is the word of its tag alone (R50). -/
theorem wordOf_of_tag_only {w : OutWord} {t : Nibble} (h : w.extractLsb' 20 4 = t) (hrest : w.extractLsb' 0 20 = 0#20) :
    wordOf t 0x0#4 0x00#8 0x00#8 = w := by
  have hfield {i n : Nat} (hin : i + n ≤ 20) : w.extractLsb' i n = 0#n := by
    have hsub := extractLsb'_of_extractLsb' (i := 0) w hin
    rw [hrest, BitVec.extractLsb'_zero, Nat.zero_add] at hsub
    exact hsub.symm
  have hw := wordOf_of_tag h
  rwa [hfield (by decide), hfield (by decide), hfield (by decide)] at hw

/-- A byte with bit 7 clear is the `zext_8` of its low 7 bits (R11). -/
theorem zext8_low : ∀ b : Byte, b.extractLsb' 7 1 = 0#1 → zext8 (b.extractLsb' 0 7) = b := by decide

/-- A check that answers or refuses answers exactly where it holds. -/
theorem ite_ok_eq_ok_iff {ε α : Type} {c : Prop} [Decidable c] {a a' : α} {e : ε} :
    (if c then .ok a else .error e : Except ε α) = .ok a' ↔ c ∧ a = a' := by
  by_cases h : c <;> simp [h]

theorem unpackSystem_eq_ok_iff {rest : BitVec 20} {m : Message} {x : Option Message} :
    unpackSystem rest m = .ok x ↔ rest = 0#20 ∧ some m = x :=
  ite_ok_eq_ok_iff

/-- Settles O33, class by class of R52: what UNPACK reads besides the tag, and the bits it finds clear, make up the
word. -/
theorem packInvertsUnpack : Obligations.PackInvertsUnpack := by
  intro w m h
  obtain htag | hdata | htag | hone | hsystem | htag := tag_classes (w.extractLsb' 20 4)
  · simp only [unpack, htag, reduceIte, ite_ok_eq_ok_iff] at h
    obtain ⟨hrest, rfl⟩ := h
    exact wordOf_of_tag_only htag hrest
  · simp only [List.mem_cons, List.not_mem_nil, or_false] at hdata
    rcases hdata with htag | htag | htag | htag <;>
      (simp only [unpack, htag, BitVec.reduceEq, reduceIte, Except.ok.injEq] at h
       subst h
       exact wordOf_of_tag htag)
  · simp only [unpack, htag, BitVec.reduceEq, reduceIte, ite_ok_eq_ok_iff] at h
    obtain ⟨hbit, rfl⟩ := h
    rw [pack, packMessage, zext8_low _ hbit]
    exact wordOf_of_tag htag
  · simp only [List.mem_cons, List.not_mem_nil, or_false] at hone
    rcases hone with htag | htag <;>
      (simp only [unpack, htag, BitVec.reduceEq, reduceIte, ite_ok_eq_ok_iff] at h
       obtain ⟨hf2, rfl⟩ := h
       have hw := wordOf_of_tag htag
       rwa [hf2] at hw)
  · simp only [List.mem_cons, List.not_mem_nil, or_false] at hsystem
    rcases hsystem with htag | htag | htag | htag | htag | htag | htag <;>
      (simp only [unpack, htag, BitVec.reduceEq, reduceIte, unpackSystem_eq_ok_iff] at h
       obtain ⟨hrest, rfl⟩ := h
       exact wordOf_of_tag_only htag hrest)
  · simp [unpack, htag] at h

/-! ### The groups that decode to AllNotesOff -/

/-- A group decodes to a message when it begins with the status byte of its category and a data byte (R93). -/
theorem decodeGroup_eq_some_iff {bytes : List Byte} {m : Message} :
    decodeGroup bytes = some m ↔
      ∃ cat c d1 rest, bytes = statusByte cat c :: d1 :: rest ∧ messageOf c d1 (rest.headD 0x00#8) cat = m := by
  constructor
  · intro h
    match bytes, h with
    | b0 :: d1 :: rest, h =>
      obtain ⟨cat, hcat, hm⟩ := Option.map_eq_some_iff.1 h
      exact ⟨cat, channelOf b0, d1, rest, by rw [statusByte_of_classify b0 cat hcat], hm⟩
  · rintro ⟨cat, c, d1, rest, rfl, rfl⟩
    exact decodeGroup_statusByte cat c d1 rest

/-- `control` is the low 7 bits of data1 (R79). -/
theorem controlOf_eq_low : ∀ d : Byte, controlOf d = d.extractLsb' 0 7 := by decide

/-- Of all categories only ControlChange gives AllNotesOff, from control 123 and value 0 on channel 0 (R97). -/
theorem messageOf_eq_allNotesOff_iff {c : Nibble} {d1 d2 : Byte} {cat : Category} :
    messageOf c d1 d2 cat = allNotesOff ↔
      cat = .controlChange ∧ c = 0x0#4 ∧ d1.extractLsb' 0 7 = 123#7 ∧ d2 = 0x00#8 := by
  cases cat <;> simp [messageOf, allNotesOff, controlOf_eq_low]

/-- Settles O36: a group that decodes to AllNotesOff begins with the status byte of ControlChange on channel 0. -/
theorem allNotesOffIsOneControlChange : Obligations.AllNotesOffIsOneControlChange := by
  refine ⟨rfl, by decide, fun bytes => ?_⟩
  have hstatus : statusByte .controlChange 0x0#4 = 0xB0#8 := by decide
  simp only [decodeGroup_eq_some_iff, messageOf_eq_allNotesOff_iff]
  constructor
  · rintro ⟨_, _, d1, rest, hbytes, rfl, rfl, hcontrol, hvalue⟩
    exact ⟨d1, rest, hstatus ▸ hbytes, hcontrol, hvalue⟩
  · rintro ⟨d1, rest, hbytes, hcontrol, hvalue⟩
    exact ⟨.controlChange, 0x0#4, d1, rest, hstatus ▸ hbytes, rfl, rfl, hcontrol, hvalue⟩

end Sys2Proof.Machine
end

section
/-! PROOFS of the family 70_reset_and_hazards. A presentation that is not held stable leaves free values on the outputs
of its unit, but its values stay on the lines (`heldRequest_sampleChanging`), so the next step settles both units on
them (R112, R55). A group that decodes to nothing shows only the `None` word (`stepOnGroup_silent`). -/

namespace Sys2Proof.Machine

/-! ### Outputs sampled while lines change -/

theorem State.sampled_of_changing (s : State) (q : Request) :
    s.sampled { request := q, stable := false } = s.sampleChanging q := rfl

/-- A step on lines that change settles both units and then draws free values for the unit presented (log entry 7). -/
theorem step_presentFirst_of_changing (s : State) (q : Request) :
    step (s.presentFirst { request := q, stable := false }) = .next ((s.arrive q).settle.sampleChanging q) := by
  rw [step_of_cons rfl, State.sampled_of_changing]
  rfl

@[simp] theorem State.heldRequest_sampleChanging (s : State) (q : Request) :
    (s.sampleChanging q).heldRequest = s.heldRequest := by
  cases q <;> rfl

/-- After lines that changed, a step with nothing pending settles both units on the values they carry now. -/
theorem step_after_changing {s : State} (hs : s.pending = []) (q : Request) :
    step ((s.arrive q).settle.sampleChanging q) = .next (((s.arrive q).settle.sampleChanging q).arrive q).settle := by
  have hpending : ((s.arrive q).settle.sampleChanging q).pending = [] := by
    rw [State.sampleChanging_pending, State.settle_pending, State.arrive_pending, hs]
  rw [step_of_nil hpending, State.heldRequest_sampleChanging, State.heldRequest_arrive_settle]

/-- Settles O12: the changing step, then a step on the held lines or on the other unit, each by its own equation. -/
theorem changingLinesSampleFreeValues : Obligations.ChangingLinesSampleFreeValues := by
  intro s hs
  constructor
  · intro g
    refine ⟨_, step_presentFirst_of_changing s _, rfl, rfl, rfl, rfl, rfl, rfl, rfl, ?held, fun r => ?other⟩
    case held => exact ⟨_, step_after_changing hs _, rfl, rfl, rfl⟩
    case other => exact ⟨_, step_presentFirst_of_stable _ rfl, rfl, rfl, rfl⟩
  · rintro r q (rfl | rfl)
    all_goals
      refine ⟨_, step_presentFirst_of_changing s _, rfl, rfl, rfl, rfl, rfl, rfl, rfl, ?held, fun g => ?other⟩
      case held => exact ⟨_, step_after_changing hs _, rfl, rfl, rfl⟩
      case other => exact ⟨_, step_presentFirst_of_stable _ rfl, rfl, rfl, rfl⟩

/-! ### The producer's lapses -/

/-- A group that starts with a data byte decodes to nothing, at every length (R74, R113). -/
theorem decodeGroup_of_data_byte {b0 : Byte} (hb : b0 < 0x80#8) (rest : List Byte) :
    decodeGroup (b0 :: rest) = none := by
  cases rest with
  | nil => rfl
  | cons d1 rest => rw [decodeGroup, classify_data_byte b0 hb, Option.map_none]

/-- A group that decodes to nothing shows the `None` word and no valid output (R91). -/
theorem stepOnGroup_silent (s : State) (fill : InLines) {bytes : List Byte} (h : decodeGroup bytes = none) :
    Completes (stepOnGroup s fill bytes) fun t => t.outWord = 0x000000#24 ∧ t.outValid = 0#1 := by
  obtain ⟨t, ht, hw⟩ := stepOnGroup_drives s fill bytes
  have hvalid : t.outValid = outValidOf t.outWord :=
    (stableStepSettlesEveryOutput s t (stableDecode (portForm fill bytes)) rfl ht).outValid
  rw [h] at hw
  exact ⟨t, ht, hw, by rw [hvalid, hw]; decide⟩

/-- A group of a NoteOn byte on channel `c` shows the NoteOn of its next byte and the one after it, 0 where absent. -/
theorem stepOnGroup_noteOn (s : State) (fill : InLines) (c : Nibble) (d1 : Byte) (rest : List Byte) :
    Completes (stepOnGroup s fill ((0x9#4 ++ c) :: d1 :: rest)) fun t =>
      t.outWord = packMessage (.noteOn c d1 (rest.headD 0x00#8)) :=
  (stepOnGroup_drives s fill _).mono fun _ hw => hw.trans (congrArg pack (decodeGroup_statusByte .noteOn c d1 rest))

/-- Settles O25: the first two groups decode to nothing, the other two to a NoteOn. -/
theorem producerLapsesAreSilent : Obligations.ProducerLapsesAreSilent := by
  intro s fill
  exact ⟨fun _ rest hb => stepOnGroup_silent s fill (decodeGroup_of_data_byte hb rest),
    fun _ => stepOnGroup_silent s fill rfl,
    fun c d1 d2 later => stepOnGroup_noteOn s fill c d1 (d2 :: later),
    fun c d1 => stepOnGroup_noteOn s fill c d1 []⟩

end Sys2Proof.Machine
end

section
/-! PROOFS of the family other. The word shown at reset is the packing of no message, and packing tells that from every
message, SystemReset among them (`none_word_ne_packMessage`). -/

namespace Sys2Proof.Machine

/-- UNPACK reads the message back, so no two messages share a word (R96). -/
theorem pack_injective : Function.Injective pack := fun m m' hword =>
  Except.ok.inj (by rw [← unpack_pack m, hword, unpack_pack m'] : Except.ok (ε := UnpackRefusal) m = .ok m')

/-- No message is packed into the `None` word (R94). -/
theorem none_word_ne_packMessage (m : Message) : 0x000000#24 ≠ packMessage m :=
  pack_injective.ne (Option.some_ne_none m).symm

/-- Settles O1: the outputs are fields of the reset state, and its word is the packing of no message. -/
theorem resetShowsNoneWordAndMakeOfZero : Obligations.ResetShowsNoneWordAndMakeOfZero :=
  ⟨rfl, rfl, rfl, rfl, none_word_ne_packMessage .systemReset⟩

end Sys2Proof.Machine
end
